-- ==== Sys2Proof/Word.lean ====
section
/-! DEFINITION. The words of the block, each at the width the spec gives it (00_scope.md R5, R6, R7;
30_encoding.md R30, R31, R41 to R43). Bit 0 is the least significant bit of every word (R6). -/

namespace Sys2Proof

/-- A PCM sample: 16 bits, read as two's complement (R7, R42). -/
abbrev Sample := BitVec 16

/-- A µ-law code: 8 bits, unsigned (R41). -/
abbrev Code := BitVec 8

/-- A `SEARCH` operand at the block's boundary: 15 bits, unsigned (R5, R35). -/
abbrev Magnitude := BitVec 15

/-- A segment index at the block's boundary: 4 bits, values 0 to 8 (R43). -/
abbrev SegIndex := BitVec 4

/-- A request word `RQ[17:0]` (R30). -/
abbrev RequestWord := BitVec 18

/-- A response word `RS[15:0]` (R31). -/
abbrev ResponseWord := BitVec 16

end Sys2Proof
end

