-- ==== Sys2Proof/Machine/Constants.lean ====
section
/-! DEFINITION. The hardwired constants (00_scope.md R4; 10_state.md R13 to R15): definitions, not state and not
configuration, the same before and after reset (R18). -/

namespace Sys2Proof.Machine

/-- The threshold table `SEG_UEND`, entries 0 to 7 in ascending order (R14). -/
def segUend : List Nat := [63, 127, 255, 511, 1023, 2047, 4095, 8191]

/-- `SEG_SIZE`, the number of entries and the value `SEARCH` returns when none qualifies (R4, R43). -/
def segSize : Nat := 8

/-- `BIAS` = 132 = 0x84 (R15). -/
def bias : Nat := 132

/-- `BIAS >> 2`, 33, the bias the encoder adds (R15, R64). -/
def biasShifted : Nat := bias >>> 2

/-- `CLIP` = 8159 (R15). -/
def clip : Nat := 8159

/-- The mantissa mask (R4, R67, R82). -/
def mantissaMask : Nat := 0x0F

/-- The segment mask (R4, R83). -/
def segmentMask : Nat := 0x70

/-- The sign mask (R4, R85). -/
def signMask : Nat := 0x80

/-- The encoder's output mask for a negative shifted sample (R4, R62). -/
def negativeMask : Nat := 0x7F

/-- The encoder's output mask for a non-negative shifted sample (R4, R62). -/
def nonNegativeMask : Nat := 0xFF

/-- The encoder's code for segment index 8, before masking (R4, R66). -/
def overflowCode : Nat := 0x7F

end Sys2Proof.Machine
end

