-- ==== Sys2Proof/Machine/Operands.lean ====
section
/-! DEFINITION. How an operand is read as a number and how a result is placed in the response word
(30_encoding.md R31, R33 to R35). There is one operand form per operation. -/

namespace Sys2Proof.Machine

/-- A `SEARCH` operand as the number it denotes, `zext_15` (R35). -/
def magnitudeOperand (v : Magnitude) : Nat := v.toNat

/-- The response to `ENCODE`: `RS[7:0]` is the code, `RS[15:8]` = 0 (R31). -/
def codeResponse (cd : Code) : ResponseWord := cd.setWidth 16

/-- The response to `DECODE`: `RS[15:0]` is the sample's two's complement pattern (R31). -/
def sampleResponse (s : Sample) : ResponseWord := s

/-- The response to `SEARCH`: `RS[3:0]` is the index, `RS[15:4]` = 0 (R31). -/
def indexResponse (k : SegIndex) : ResponseWord := k.setWidth 16

/-- The code an `ENCODE` response carries, `RS[7:0]` (R31): what the host carries across in `ROUNDTRIP` (R40). -/
def codeOfResponse (r : ResponseWord) : Code := r.extractLsb' 0 8

end Sys2Proof.Machine
end

