-- ==== Sys2Proof/Syntax.lean ====
section
/-! DEFINITION. The operations of the block (00_scope.md R2, 30_encoding.md R32): one constructor per row of
spec/opcode_table.json. Each operand has exactly the width of its domain (R33, R34, R35), so no operand value of an
`Instr` is illegal (log entry 12). -/

namespace Sys2Proof

/-- One request, as what it asks for. The spec's word is "operation"; no operation has an immediate (R37). -/
inductive Instr where
  /-- `ENCODE s`: a 16-bit sample to a µ-law code (R33, R60). -/
  | encode (s : Sample)
  /-- `DECODE cd`: a µ-law code to a 16-bit sample (R34, R80). -/
  | decode (cd : Code)
  /-- `SEARCH v`: a magnitude 0 to 32767 to a segment index (R35, R50). -/
  | search (v : Magnitude)
deriving DecidableEq, Repr

/-- Why a request word is reserved (30_encoding.md R36): the three rows of its table. -/
inductive Reserved where
  /-- `op` = 11, any operand. -/
  | selector
  /-- `op` = 01 (`DECODE`) with `RQ[15:8]` not 0. -/
  | decodeUpper
  /-- `op` = 10 (`SEARCH`) with `RQ[15]` = 1. -/
  | searchTop
deriving DecidableEq, Repr

end Sys2Proof
end

