-- ==== Sys2Proof/WellFormed.lean ====
section
/-! DEFINITION. Which request words are outside the reserved space, in the match and mask form of 30_encoding.md
("Opcode map in prose (E3)") and of spec/opcode_table.json. Every `Instr` is well-formed by its types; what can be
ill-formed is a request WORD. The decoder (Decode.lean) is written from the fields of R30 to R36 and not from these
rows, so that the two can be compared. -/

namespace Sys2Proof

/-- One row of the opcode table. -/
structure OpcodeRow where
  mnemonic : String
  matchBits : RequestWord
  mask : RequestWord
deriving DecidableEq, Repr

/-- The three rows of the table, in its order. -/
def encodeRow : OpcodeRow := ⟨"ENCODE", 0x00000#18, 0x30000#18⟩
def decodeRow : OpcodeRow := ⟨"DECODE", 0x10000#18, 0x3FF00#18⟩
def searchRow : OpcodeRow := ⟨"SEARCH", 0x20000#18, 0x38000#18⟩

def opcodeRows : List OpcodeRow := [encodeRow, decodeRow, searchRow]

/-- "A request word `w` selects a row when `w & mask = match`." -/
def rowSelects (r : OpcodeRow) (w : RequestWord) : Bool := w &&& r.mask == r.matchBits

/-- A word that selects some row; "a word that selects no row is reserved (rule R36)". -/
def wellFormedWord (w : RequestWord) : Bool := opcodeRows.any (rowSelects · w)

end Sys2Proof
end

