-- ==== Sys2Proof/Decode.lean ====
section
/-! DEFINITION. From request words to operations and back (30_encoding.md Part B, R30, R32 to R36, R38): fields are
pulled out here, once. One format, one length of 18 bits, no byte order (20_memory.md R22). -/

namespace Sys2Proof

/-- `RQ[17:16]`, the operation selector (R30). -/
def opField (w : RequestWord) : BitVec 2 := w.extractLsb' 16 2

/-- `RQ[15:0]`, the operand field (R30). -/
def operandField (w : RequestWord) : BitVec 16 := w.extractLsb' 0 16

/-- An `ENCODE` operand: all 16 bits are the sample, every value valid (R33). -/
def readSample (f : BitVec 16) : Except Reserved Instr := .ok (.encode f)

/-- A `DECODE` operand: the low 8 bits, the upper 8 must be 0 (R34). -/
def readCode (f : BitVec 16) : Except Reserved Instr :=
  if f.extractLsb' 8 8 = 0#8 then .ok (.decode (f.extractLsb' 0 8)) else .error .decodeUpper

/-- A `SEARCH` operand: the low 15 bits, bit 15 must be 0 (R35). -/
def readMagnitude (f : BitVec 16) : Except Reserved Instr :=
  if f.extractLsb' 15 1 = 0#1 then .ok (.search (f.extractLsb' 0 15)) else .error .searchTop

/-- The operation a request word asks for, or why the word is reserved (R32, R36). Total. -/
def decodeRequest (w : RequestWord) : Except Reserved Instr :=
  if opField w = 0b00#2 then readSample (operandField w)
  else if opField w = 0b01#2 then readCode (operandField w)
  else if opField w = 0b10#2 then readMagnitude (operandField w)
  else .error .selector

/-- `RQ[17:0]` from its two fields: `op` at bits 17 and 16, the operand below it (R30). -/
def requestWord (op : BitVec 2) (operand : BitVec 16) : RequestWord :=
  (op.setWidth 18 <<< 16) ||| operand.setWidth 18

/-- The request word of an operation (the encoding bullets of R50, R60, R80): a `DECODE` or `SEARCH` operand stands in
the low bits, with zeros above it. -/
def encodeRequest : Instr → RequestWord
  | .encode s => requestWord 0b00#2 s
  | .decode cd => requestWord 0b01#2 (cd.setWidth 16)
  | .search v => requestWord 0b10#2 (v.setWidth 16)

/-- The number `w` of `nbits` bits as a request word: bits above `nbits` are 0, and a number that needs more than
18 bits is no request word (R30, R38; log entry 11). -/
def tableWord (nbits w : Nat) : Option RequestWord :=
  if w % 2 ^ nbits < 2 ^ 18 then some (BitVec.ofNat 18 (w % 2 ^ nbits)) else none

/-- The host's question: what the decoder reads from the bits `w`, numbered as the opcode table numbers them. -/
def decodeTableWord (nbits w : Nat) : Option Instr :=
  match tableWord nbits w with
  | some rq =>
    match decodeRequest rq with
    | .ok i => some i
    | .error _ => none
  | none => none

end Sys2Proof
end

