-- ==== Sys2Proof/Machine/State.lean ====
section
/-! DEFINITION. The state. The block has none (10_state.md R10 to R13, R18): no register, program counter, flag, mode,
memory or hidden state. The two fields below are the MODEL's own: the host's outstanding requests and the record of
answered ones (R10 allows "the list of transactions so far, which no operation reads"; 70_reset_and_hazards.md R136). -/

namespace Sys2Proof.Machine

/-- Why the machine stops with a fault: never. "The fault type of a model of this block is empty: no step returns a
fault" (60_exceptions.md R120 and section 7). -/
inductive Fault where
deriving DecidableEq, Repr

/-- Why a request has no step. -/
inductive Refusal where
  /-- An operation without a meaning in this model; no arm of `exec` raises it. Safe. -/
  | notModelled (mnemonic : String)
  /-- Raised by `step` on a request word with `op` = 11 (R36, U7). Safe: nothing is claimed of it. -/
  | reservedSelector
  /-- Raised by `step` on a `DECODE` word with `RQ[15:8]` not 0 (R34, R36, U7). Safe. -/
  | reservedDecodeUpper
  /-- Raised by `step` on a `SEARCH` word with `RQ[15]` = 1 (R35, R36, U6). Safe. -/
  | reservedSearchTop
deriving DecidableEq, Repr

/-- One request together with its response (00_scope.md glossary, "transaction"). -/
structure Transaction where
  request : RequestWord
  response : ResponseWord
deriving DecidableEq, Repr

/-- The model's state (log entries 1 and 2). -/
structure State where
  /-- Requests the host has issued and the block has not answered, oldest first (R136, R137). -/
  pending : List RequestWord
  /-- The transactions so far, oldest first (R10, R136). No operation reads it. -/
  history : List Transaction
deriving DecidableEq, Repr

/-- Right after reset, and before the first request: nothing issued, nothing answered (R18, R130; log entry 4). -/
def State.reset : State := { pending := [], history := [] }

end Sys2Proof.Machine
end

