-- ==== Sys2Proof/Machine/Ops.lean ====
section
/-! DEFINITION. The operations over the model's state: taking the next request, delivering a response, refusing a
reserved request. There is no memory (20_memory.md R21) and no register (10_state.md R11) to operate on, and NO
exception to take or return from (60_exceptions.md R120, R124): no such operation exists. -/

namespace Sys2Proof.Machine

/-- Every step of the model ends in one of these. -/
abbrev Result := Host.Outcome State Fault Refusal

/-- The host presents a request, to be answered next (R137). -/
def present (w : RequestWord) (s : State) : State := { s with pending := w :: s.pending }

/-- The request to answer next and the state once it is taken; none when the host has issued no further one (R136). -/
def takeRequest (s : State) : Option (RequestWord × State) :=
  match s.pending with
  | [] => none
  | w :: rest => some (w, { s with pending := rest })

/-- With no request presented nothing happens: the run has ended, or not begun (R136; log entry 3). -/
def idle (s : State) : Result := .next s

/-- Deliver the response `r` to the operation `i`: the transaction is recorded, and nothing else changes, since no
operation has a side effect (20_memory.md R24). -/
def deliver (i : Instr) (r : ResponseWord) (s : State) : Result :=
  .next { s with history := s.history ++ [⟨encodeRequest i, r⟩] }

/-- The refusal of each kind of reserved request (R36, R126). -/
def refusalOf : Reserved → Refusal
  | .selector => .reservedSelector
  | .decodeUpper => .reservedDecodeUpper
  | .searchTop => .reservedSearchTop

/-- A reserved request gets no step and no response (R36, R126; log entry 6). -/
def refuse (r : Reserved) : Result := .refused (refusalOf r)

end Sys2Proof.Machine
end

