-- ==== Sys2Proof/Machine/Search.lean ====
section
/-! DEFINITION. `SEARCH`, the segment threshold lookup (40_segment_search.md R50). -/

namespace Sys2Proof.Machine

/-- The linear scan of R50: the index, counted from `k`, of the first entry at or above `v`; past the last entry, the
number of entries. Ties go to the lower index because the comparison is `v ≤ entry` (R51). -/
def firstAtLeast : List Nat → Nat → Nat → Nat
  | [], k, _ => k
  | t :: ts, k, v => if v ≤ t then k else firstAtLeast ts (k + 1) v

/-- `SEARCH(v)` on every natural number; the rule is width-free, only the boundary is 15 bits (R50, D7; log entry 14). -/
def segSearch (v : Nat) : Nat := firstAtLeast segUend 0 v

/-- The search unit as ports: `seg_v[14:0]` to `seg_index[3:0]` (30_encoding.md R44). -/
def searchUnit (v : Magnitude) : SegIndex := BitVec.ofNat 4 (segSearch (magnitudeOperand v))

/-- The response word to `SEARCH v` (R31, R50). -/
def searchResponse (v : Magnitude) : ResponseWord := indexResponse (searchUnit v)

/-- The meaning of `SEARCH v` (R50): no flag, no exception, nothing written. -/
def execSearch (v : Magnitude) (s : State) : Result := deliver (.search v) (searchResponse v) s

end Sys2Proof.Machine
end

