-- ==== Sys2Proof/Machine/UlawDecode.lean ====
section
/-! DEFINITION. `DECODE`, 8-bit µ-law to 16-bit PCM (42_ulaw_decode.md R80): one definition per step. It does not read
the threshold table. The names in the docstrings are those of 10_state.md R17. -/

namespace Sys2Proof.Machine

/-- `u`, step 1: the complement of all 8 bits (R81). -/
def decComplement (cd : Code) : Nat := (~~~cd).toNat

/-- `q`, step 2: the mantissa (R82). -/
def decMantissa (cd : Code) : Nat := decComplement cd &&& mantissaMask

/-- `t0`, step 2: the base magnitude, with the full bias (R82). -/
def decBase (cd : Code) : Nat := (decMantissa cd <<< 3) + bias

/-- `k`, step 3: the segment (R83). -/
def decSegment (cd : Code) : Nat := (decComplement cd &&& segmentMask) >>> 4

/-- `t`, step 4: scaled by the segment (R84). -/
def decScaled (cd : Code) : Nat := decBase cd <<< decSegment cd

/-- `sgn`, step 5: the sign bit of the complemented byte (R85). -/
def decSign (cd : Code) : Nat := decComplement cd &&& signMask

/-- `DECODE(cd)`, step 5: the two branches exactly as written (R80, R85, R90). -/
def ulawDecode (cd : Code) : Int :=
  if decSign cd ≠ 0 then (bias : Int) - (decScaled cd : Int) else (decScaled cd : Int) - (bias : Int)

/-- The decoder unit as ports: `dec_code[7:0]` to `dec_sample[15:0]` (30_encoding.md R44). -/
def decoderUnit (cd : Code) : Sample := BitVec.ofInt 16 (ulawDecode cd)

/-- The response word to `DECODE cd` (R31, R80). -/
def decodeResponse (cd : Code) : ResponseWord := sampleResponse (decoderUnit cd)

/-- The meaning of `DECODE cd` (R80): no flag, no exception, nothing written. -/
def execDecode (cd : Code) (s : State) : Result := deliver (.decode cd) (decodeResponse cd) s

end Sys2Proof.Machine
end

