-- ==== Sys2Proof/Machine/UlawEncode.lean ====
section
/-! DEFINITION. `ENCODE`, 16-bit PCM to 8-bit µ-law (41_ulaw_encode.md R60): one definition per step, in the order the
rule fixes (R69). The values are exact integers (00_scope.md R8); the names in the docstrings are those of 10_state.md
R16. -/

namespace Sys2Proof.Machine

/-- `p`, step 1: the arithmetic right shift by 2, on bits `sext_14(s[15:2])` (R61, D14, 90_conflicts.md C1; log entry 9). -/
def encShifted (s : Sample) : Int := (s.extractLsb' 2 14).toInt

/-- `neg`, step 2: the sign of the shifted value, not of `s` (R62). -/
def encNegative (s : Sample) : Bool := decide (encShifted s < 0)

/-- `mask`, step 2 (R62). -/
def encMask (s : Sample) : Nat := if encNegative s then negativeMask else nonNegativeMask

/-- `m`, step 2: the magnitude (R62). -/
def encMagnitude (s : Sample) : Nat :=
  if encNegative s then (-(encShifted s)).toNat else (encShifted s).toNat

/-- `c`, step 3: clip (R63). -/
def encClipped (s : Sample) : Nat := min (encMagnitude s) clip

/-- `b`, step 4: bias, added after the clip (R64). -/
def encBiased (s : Sample) : Nat := encClipped s + biasShifted

/-- `k`, step 5: the segment of the biased magnitude (R65). -/
def encSegment (s : Sample) : Nat := segSearch (encBiased s)

/-- `q`: the four mantissa bits; used only when `k < 8` (R67). -/
def encMantissa (s : Sample) : Nat := (encBiased s >>> (encSegment s + 1)) &&& mantissaMask

/-- `u`, steps 6 and 7: the byte before the mask. Step 6 is live: index 8 occurs (R66, R67, R72). -/
def encPreMask (s : Sample) : Nat :=
  if segSize ≤ encSegment s then overflowCode else (encSegment s <<< 4) ||| encMantissa s

/-- `ENCODE(s)`: the final XOR (R60, R68). -/
def ulawEncode (s : Sample) : Nat := encPreMask s ^^^ encMask s

/-- The encoder unit as ports: `enc_sample[15:0]` to `enc_code[7:0]` (30_encoding.md R44). -/
def encoderUnit (s : Sample) : Code := BitVec.ofNat 8 (ulawEncode s)

/-- The response word to `ENCODE s` (R31, R60). -/
def encodeResponse (s : Sample) : ResponseWord := codeResponse (encoderUnit s)

/-- The meaning of `ENCODE s` (R60): no flag, no exception, nothing written. -/
def execEncode (x : Sample) (s : State) : Result := deliver (.encode x) (encodeResponse x) s

end Sys2Proof.Machine
end

