-- ==== Sys2Proof/Machine/Dispatch.lean ====
section
/-! DEFINITION. One arm per operation: the block answers a request with the function value of its operand (R26). -/

namespace Sys2Proof.Machine

def exec (i : Instr) (s : State) : Host.Outcome State Fault Refusal :=
  match i with
  | .encode x => Sys2Proof.Machine.execEncode x s
  | .decode cd => Sys2Proof.Machine.execDecode cd s
  | .search v => Sys2Proof.Machine.execSearch v s

end Sys2Proof.Machine
end

