-- ==== Sys2Proof/Machine/Step.lean ====
section
/-! DEFINITION. One step: the block answers the oldest request the host has issued (20_memory.md R26,
70_reset_and_hazards.md R136). There is no program counter (10_state.md R12); a program is the host's sequence of
requests (D8; log entry 2). -/

namespace Sys2Proof.Machine

def step (s : State) : Host.Outcome State Fault Refusal :=
  match takeRequest s with
  | none => idle s
  | some (w, s') =>
    match decodeRequest w with
    | .ok i => exec i s'
    | .error r => refuse r

/-- `s` with the request of bits `w` presented as the next one to be answered; a number of more than 18 bits is no
request, and nothing is presented (log entries 2 and 11). -/
def State.withFetchWord (s : State) (nbits w : Nat) : State :=
  match tableWord nbits w with
  | some rq => present rq s
  | none => s

end Sys2Proof.Machine
end

