-- ==== Sys2Proof/Machine/Ports.lean ====
section
/-! DEFINITION. The structural view of the block (30_encoding.md R44): three independent combinational units, each with
its own ports, usable at the same time; and the composition `ROUNDTRIP` that the host makes of two of them (R40). -/

namespace Sys2Proof.Machine

/-- The input ports. -/
structure PortInputs where
  encSample : Sample
  decCode : Code
  segV : Magnitude
deriving DecidableEq, Repr

/-- The output ports. -/
structure PortOutputs where
  encCode : Code
  decSample : Sample
  segIndex : SegIndex
deriving DecidableEq, Repr

/-- The block as ports: each output depends on its own input alone (R44). -/
def blockPorts (x : PortInputs) : PortOutputs :=
  { encCode := encoderUnit x.encSample, decSample := decoderUnit x.decCode, segIndex := searchUnit x.segV }

/-- The response to each operation: the function value `F(r)` of 20_memory.md R26. -/
def response : Instr → ResponseWord
  | .encode s => encodeResponse s
  | .decode cd => decodeResponse cd
  | .search v => searchResponse v

/-- `ROUNDTRIP x`, that is `DECODE(ENCODE(x))`, on bit patterns: the host carries the code across (R40, D17). -/
def roundTrip (x : Sample) : Sample := decoderUnit (encoderUnit x)

end Sys2Proof.Machine
end

