-- ==== Sys2Proof/Machine/Text.lean ====
section
/-! DEFINITION. The textual syntax of 30_encoding.md R39, as lists of characters: reading a line that holds one
operation, and writing an operation and a transaction. What R39 leaves open is fixed in log entry 10. -/

namespace Sys2Proof.Machine

/-- What is left of a text once the given beginning is taken off; none if the text does not begin so. -/
def afterPrefix : List Char → List Char → Option (List Char)
  | [], cs => some cs
  | _ :: _, [] => none
  | p :: ps, c :: cs => if p = c then afterPrefix ps cs else none

/-- The value of a decimal digit. -/
def decimalValue (c : Char) : Option Nat :=
  if 48 ≤ c.toNat ∧ c.toNat ≤ 57 then some (c.toNat - 48) else none

/-- The value of a hex digit, 0 to 9 or A to F (capitals, as the spec writes them). -/
def hexValue (c : Char) : Option Nat :=
  if 48 ≤ c.toNat ∧ c.toNat ≤ 57 then some (c.toNat - 48)
  else if 65 ≤ c.toNat ∧ c.toNat ≤ 70 then some (c.toNat - 55)
  else none

/-- Digits, most significant first, onto a value read so far. -/
def readDigits (base : Nat) (value : Char → Option Nat) : Nat → List Char → Option Nat
  | acc, [] => some acc
  | acc, c :: cs =>
    match value c with
    | some d => readDigits base value (acc * base + d) cs
    | none => none

/-- A number of at least one digit. -/
def readNumber (base : Nat) (value : Char → Option Nat) (cs : List Char) : Option Nat :=
  if cs = [] then none else readDigits base value 0 cs

/-- The digits after `0x`, if the text is a hex literal. -/
def hexDigits (cs : List Char) : Option (List Char) := afterPrefix ['0', 'x'] cs

/-- A number no greater than `bound`. -/
def atMost (bound : Nat) (n : Option Nat) : Option Nat :=
  match n with
  | some k => if k ≤ bound then some k else none
  | none => none

/-- The operand of `ENCODE`: a signed decimal integer -32768 to 32767, or `0xHHHH` read as two's complement. -/
def readSampleText (cs : List Char) : Option Sample :=
  match hexDigits cs with
  | some hs => if hs.length = 4 then (readNumber 16 hexValue hs).map (BitVec.ofNat 16) else none
  | none =>
    match afterPrefix ['-'] cs with
    | some ds => (atMost 32768 (readNumber 10 decimalValue ds)).map fun n => BitVec.ofInt 16 (-(n : Int))
    | none => (atMost 32767 (readNumber 10 decimalValue cs)).map (BitVec.ofNat 16)

/-- The operand of `DECODE`: `0xHH` or a decimal 0 to 255. -/
def readCodeText (cs : List Char) : Option Code :=
  match hexDigits cs with
  | some hs => if hs.length = 2 then (readNumber 16 hexValue hs).map (BitVec.ofNat 8) else none
  | none => (atMost 255 (readNumber 10 decimalValue cs)).map (BitVec.ofNat 8)

/-- The operand of `SEARCH`: a decimal 0 to 32767 or hex. -/
def readMagnitudeText (cs : List Char) : Option Magnitude :=
  match hexDigits cs with
  | some hs => (atMost 32767 (readNumber 16 hexValue hs)).map (BitVec.ofNat 15)
  | none => (atMost 32767 (readNumber 10 decimalValue cs)).map (BitVec.ofNat 15)

def encodeName : List Char := ['E', 'N', 'C', 'O', 'D', 'E']
def decodeName : List Char := ['D', 'E', 'C', 'O', 'D', 'E']
def searchName : List Char := ['S', 'E', 'A', 'R', 'C', 'H']

/-- The operation a line asks for: the mnemonic, one space, the operand (R39). -/
def readLine (cs : List Char) : Option Instr :=
  match afterPrefix (encodeName ++ [' ']) cs with
  | some o => (readSampleText o).map .encode
  | none =>
    match afterPrefix (decodeName ++ [' ']) cs with
    | some o => (readCodeText o).map .decode
    | none =>
      match afterPrefix (searchName ++ [' ']) cs with
      | some o => (readMagnitudeText o).map .search
      | none => none

/-- The character of a hex or decimal digit. -/
def digitChar (d : Nat) : Char := if d < 10 then Char.ofNat (48 + d) else Char.ofNat (55 + d)

/-- At most `fuel` decimal digits of a number, no leading zero. -/
def decimalDigits : Nat → Nat → List Char
  | 0, _ => []
  | fuel + 1, n => if n < 10 then [digitChar n] else decimalDigits fuel (n / 10) ++ [digitChar (n % 10)]

/-- A number below 100000 in decimal. -/
def natText (n : Nat) : List Char := decimalDigits 5 n

/-- A signed number in decimal. -/
def intText (i : Int) : List Char := if i < 0 then '-' :: natText (-i).toNat else natText i.toNat

/-- A code as `0xHH`. -/
def codeText (cd : Code) : List Char := ['0', 'x', digitChar (cd.toNat / 16), digitChar (cd.toNat % 16)]

/-- An operation as a line, its operand written as in the examples of R39. -/
def operationText : Instr → List Char
  | .encode s => encodeName ++ [' '] ++ intText s.toInt
  | .decode cd => decodeName ++ [' '] ++ codeText cd
  | .search v => searchName ++ [' '] ++ natText v.toNat

/-- The result of an operation: a code, a sample, an index (R39). -/
def resultText : Instr → List Char
  | .encode s => codeText (encoderUnit s)
  | .decode cd => intText (decoderUnit cd).toInt
  | .search v => natText (searchUnit v).toNat

/-- "A response is written after `->`." (R39) -/
def transactionText (i : Instr) : List Char := operationText i ++ [' ', '-', '>', ' '] ++ resultText i

end Sys2Proof.Machine
end

