-- ==== Sys2Proof/Safety.lean ====
section
/-! DEFINITION. The terms in which claims about the block are made: what it is to answer an operation, and what a good
state is. -/

namespace Sys2Proof.Machine

/-- In EVERY state the operation `i` completes with the response `r`: the transaction is recorded under the request word
of `i`, and nothing else changes (20_memory.md R24, R26; the record is log entry 1). -/
def Answers (i : Instr) (r : ResponseWord) : Prop :=
  ∀ s : State, exec i s = .next { pending := s.pending, history := s.history ++ [⟨encodeRequest i, r⟩] }

/-- The function value of a request word: none for a reserved one, which has no response (R26, R36). -/
def answer (w : RequestWord) : Option ResponseWord :=
  match decodeRequest w with
  | .ok i => some (response i)
  | .error _ => none

/-- A transaction whose response is the function value of its own request (R26, R136). -/
def TrueTransaction (t : Transaction) : Prop := answer t.request = some t.response

/-- The invariant of a run: every response delivered so far is the function value of its own request; so no reserved
request was answered. -/
def HistoryTrue (s : State) : Prop := ∀ t ∈ s.history, TrueTransaction t

/-- What a response can hold, by the operation that was asked for (R31, R43): an `ENCODE` response is a code other than
0x7F in the low byte (R74), a `DECODE` response a sample -32124 to 32124 (R86), a `SEARCH` response an index 0 to 8 (R54). -/
def ResponseInShape (t : Transaction) : Prop :=
  match decodeRequest t.request with
  | .ok (.encode _) => t.response.toNat ≤ 0xFF ∧ t.response.toNat ≠ 0x7F
  | .ok (.decode _) => -32124 ≤ t.response.toInt ∧ t.response.toInt ≤ 32124
  | .ok (.search _) => t.response.toNat ≤ 8
  | .error _ => False

/-- The second invariant of a run: every response delivered so far is one its operation can give. -/
def HistoryInShape (s : State) : Prop := ∀ t ∈ s.history, ResponseInShape t

/-- All requests the host has issued so far, oldest first: the answered ones, then those still pending. -/
def issued (s : State) : List RequestWord := s.history.map Transaction.request ++ s.pending

end Sys2Proof.Machine
end

