-- ==== Sys2Proof/Certificates/Slice0/Obligations.lean ====
section
/-! DEFINITION. The statements for the provers. Each docstring names the rule of spec/ it formalises. `Answers i r` says
that `exec` completes on `i` in EVERY state with the response `r`, so it is the completion statement and the frame at
once. That a transaction is recorded at all, and that requests wait in a queue, are the model's own conventions (log
entries 1 and 2). -/

open Sys2Proof Sys2Proof.Machine

/-! ### Encoding -/

/-- Request words written out in the spec (95_test_vectors.md sections 1.1, 2.1, 2.2 and 3.2, in the encoding of
30_encoding.md Part B) decode to the operations they stand for: for each operation, both ends of its operand range and an
operand inside it. -/
def Obligations.DecodeReadsSpecWords : Prop :=
  decodeRequest 0x01E7C#18 = .ok (.encode (BitVec.ofInt 16 7804)) ∧
  decodeRequest 0x0E0A1#18 = .ok (.encode (BitVec.ofInt 16 (-8031))) ∧
  decodeRequest 0x08000#18 = .ok (.encode (BitVec.ofInt 16 (-32768))) ∧
  decodeRequest 0x07FFF#18 = .ok (.encode (BitVec.ofInt 16 32767)) ∧
  decodeRequest 0x10000#18 = .ok (.decode 0x00#8) ∧
  decodeRequest 0x10001#18 = .ok (.decode 0x01#8) ∧
  decodeRequest 0x100FF#18 = .ok (.decode 0xFF#8) ∧
  decodeRequest 0x20000#18 = .ok (.search 0#15) ∧
  decodeRequest 0x207C0#18 = .ok (.search 1984#15) ∧
  decodeRequest 0x27FFF#18 = .ok (.search 32767#15)

/-- R33, R34, R35: how each operation's operand is read from the request word, and which upper bits must be 0. A sample
denotes the integer `sext_16(RQ[15:0])`, a code `zext_8(RQ[7:0])`, a magnitude `zext_15(RQ[14:0])`. Inside `ENCODE`
the search is only ever given 33 to 8192. -/
def Obligations.OperandsReadFromFields : Prop :=
  (∀ x : Sample, 33 ≤ encBiased x ∧ encBiased x ≤ 8192) ∧
  ∀ w : RequestWord,
    (w.extractLsb' 16 2 = 0b00#2 → ∃ x : Sample, decodeRequest w = .ok (.encode x) ∧
      x.toInt = if w.toNat % 65536 < 32768 then ((w.toNat % 65536 : Nat) : Int) else (w.toNat % 65536 : Nat) - 65536) ∧
    (w.extractLsb' 16 2 = 0b01#2 → w.extractLsb' 8 8 = 0#8 →
      ∃ cd : Code, decodeRequest w = .ok (.decode cd) ∧ cd.toNat = w.toNat % 256) ∧
    (w.extractLsb' 16 2 = 0b01#2 → w.extractLsb' 8 8 ≠ 0#8 → decodeRequest w = .error .decodeUpper) ∧
    (w.extractLsb' 16 2 = 0b10#2 → w.extractLsb' 15 1 = 0#1 →
      ∃ v : Magnitude, decodeRequest w = .ok (.search v) ∧ v.toNat = w.toNat % 32768) ∧
    (w.extractLsb' 16 2 = 0b10#2 → w.extractLsb' 15 1 = 1#1 → decodeRequest w = .error .searchTop)

/-- Decoding an operation's request word gives the operation back, at every operand (R30, R32 to R35). -/
def Obligations.DecodeOfEncode : Prop :=
  ∀ i : Instr, decodeRequest (encodeRequest i) = .ok i

/-- Each accepted request word is the request word of the operation it decodes to, so it has one meaning. -/
def Obligations.EncodeOfDecode : Prop :=
  ∀ (w : RequestWord) (i : Instr), decodeRequest w = .ok i → encodeRequest i = w

/-- The three reserved sets of R36, on the bits of the word: each is refused by its own name in every state, and nothing
else is refused. -/
def Obligations.ReservedWordsRefused : Prop :=
  ∀ (w : RequestWord) (s : State),
    (w.extractLsb' 16 2 = 0b11#2 → step (present w s) = .refused .reservedSelector) ∧
    (w.extractLsb' 16 2 = 0b01#2 ∧ w.extractLsb' 8 8 ≠ 0#8 → step (present w s) = .refused .reservedDecodeUpper) ∧
    (w.extractLsb' 16 2 = 0b10#2 ∧ w.extractLsb' 15 1 = 1#1 → step (present w s) = .refused .reservedSearchTop) ∧
    ((∃ r, step (present w s) = .refused r) →
      w.extractLsb' 16 2 = 0b11#2 ∨ (w.extractLsb' 16 2 = 0b01#2 ∧ w.extractLsb' 8 8 ≠ 0#8) ∨
        (w.extractLsb' 16 2 = 0b10#2 ∧ w.extractLsb' 15 1 = 1#1))

/-- How many request words each reserved set and each operation has (the counts of R36). -/
def Obligations.RequestWordCounts : Prop :=
  Nat.card { w : RequestWord // decodeRequest w = .error .selector } = 65536 ∧
  Nat.card { w : RequestWord // decodeRequest w = .error .decodeUpper } = 65280 ∧
  Nat.card { w : RequestWord // decodeRequest w = .error .searchTop } = 32768 ∧
  Nat.card { w : RequestWord // ∃ s, decodeRequest w = .ok (.encode s) } = 65536 ∧
  Nat.card { w : RequestWord // ∃ cd, decodeRequest w = .ok (.decode cd) } = 256 ∧
  Nat.card { w : RequestWord // ∃ v, decodeRequest w = .ok (.search v) } = 32768 ∧
  Nat.card { w : RequestWord // ∃ i, decodeRequest w = .ok i } = 98560

/-- The match and mask rows of the opcode table select exactly the words the decoder reads as that row's operation, and
no word selects two rows (30_encoding.md, "Opcode map in prose (E3)"). -/
def Obligations.MatchMaskRowsAgree : Prop :=
  ∀ w : RequestWord,
    (w &&& 0x30000#18 = 0x00000#18 ↔ ∃ s, decodeRequest w = .ok (.encode s)) ∧
    (w &&& 0x3FF00#18 = 0x10000#18 ↔ ∃ cd, decodeRequest w = .ok (.decode cd)) ∧
    (w &&& 0x38000#18 = 0x20000#18 ↔ ∃ v, decodeRequest w = .ok (.search v)) ∧
    (wellFormedWord w = true ↔ ∃ i, decodeRequest w = .ok i) ∧
    (opcodeRows.filter (rowSelects · w)).length ≤ 1

/-! ### The machine: steps, runs, reset -/

/-- A step runs the operation that the oldest pending request decodes to, in the state without that request. The queue
of pending requests is the model's convention (log entry 2). -/
def Obligations.StepRunsDecoded : Prop :=
  ∀ (s : State) (w : RequestWord) (rest : List RequestWord) (i : Instr),
    s.pending = w :: rest → decodeRequest w = .ok i → step s = exec i { s with pending := rest }

/-- With no request pending a step changes nothing. The model's choice (log entry 3): the spec gives the block no step
of its own (R26, R136). -/
def Obligations.StepWithoutRequestChangesNothing : Prop :=
  ∀ s : State, s.pending = [] → step s = .next s

/-- R120: no operation raises an exception, there is no cause, and no step ends in a fault; every operation completes in
every state. -/
def Obligations.NoOperationFaults : Prop :=
  (∀ (i : Instr) (s : State), ∃ t, exec i s = .next t) ∧
  (∀ (s : State) (f : Fault), step s ≠ .fault f) ∧
  (∀ _ : Fault, False)

/-- What `ENCODE`, `DECODE` and `SEARCH` leave unchanged: the pending requests and all earlier transactions. One
transaction, under the operation's own request word, is added (R24; the record is log entry 1). -/
def Obligations.OperationFrame : Prop :=
  ∀ (i : Instr) (s t : State), exec i s = .next t →
    t.pending = s.pending ∧ ∃ r, t.history = s.history ++ [⟨encodeRequest i, r⟩]

/-- A request that is not reserved has ONE response, the same in every state: whatever was answered before, whatever
waits behind it, and right after reset (R19, R26, R130). -/
def Obligations.SameAnswerInEveryState : Prop :=
  ∀ w : RequestWord, (∃ i, decodeRequest w = .ok i) →
    ∃ r : ResponseWord, ∀ s : State,
      step (present w s) = .next { pending := s.pending, history := s.history ++ [⟨w, r⟩] }

/-- Every step keeps: each response delivered so far is the function value of its own request (R26, R136). -/
def Obligations.HistoryTrueKept : Prop :=
  ∀ s t : State, HistoryTrue s → step s = .next t → HistoryTrue t

/-- Every step keeps: each response delivered so far lies in the range of its operation (R31, R54, R74, R86). -/
def Obligations.HistoryInShapeKept : Prop :=
  ∀ s t : State, HistoryInShape s → step s = .next t → HistoryInShape t

/-- Both invariants hold right after reset (the empty history at reset is log entry 4). -/
def Obligations.InvariantsAtReset : Prop :=
  HistoryTrue State.reset ∧ HistoryInShape State.reset

/-- No step loses, invents or reorders a request: the requests issued so far, answered and pending together, are the
same list after it, and what is pending is what was pending without its first (R136; the queue is log entry 2). -/
def Obligations.StepKeepsIssuedRequests : Prop :=
  ∀ s t : State, step s = .next t → issued t = issued s ∧ t.pending = s.pending.tail

/-- A run over any finite sequence of operations answers each with its function value, in order (R136). -/
def Obligations.RunAnswersEveryRequest : Prop :=
  ∀ (is : List Instr) (h : List Transaction),
    Host.Core.run Sys2Proof.core is.length ({ pending := is.map encodeRequest, history := h } : State) =
      .next ({ pending := [], history := h ++ is.map fun i => ⟨encodeRequest i, response i⟩ } : State)

/-- The order in which requests are issued is not observable in their responses: two runs over the same requests in
different orders deliver the same transactions, reordered (R26). -/
def Obligations.OrderOfRequestsIsImmaterial : Prop :=
  ∀ is js : List Instr, is.Perm js →
    ∃ h k : List Transaction,
      Host.Core.run Sys2Proof.core is.length ({ pending := is.map encodeRequest, history := [] } : State) =
        .next ({ pending := [], history := h } : State) ∧
      Host.Core.run Sys2Proof.core js.length ({ pending := js.map encodeRequest, history := [] } : State) =
        .next ({ pending := [], history := k } : State) ∧
      h.Perm k

/-- Every hardwired constant has the value listed for it: the threshold table (R14), `BIAS` and `CLIP` (R15), and the
rest of the table of R4: `SEG_SIZE`, `BIAS >> 2`, the mantissa, segment and sign masks, the two output masks and the
overflow code. The form `2^(k+6) - 1` of the thresholds and the hex of `CLIP` and `BIAS >> 2` are the spec's own
conversions. -/
def Obligations.ConstantsAsListed : Prop :=
  segUend = [63, 127, 255, 511, 1023, 2047, 4095, 8191] ∧ segSize = 8 ∧ segUend.length = segSize ∧
  segUend = (List.range 8).map (fun k => 2 ^ (k + 6) - 1) ∧
  bias = 132 ∧ bias = 0x84 ∧ clip = 8159 ∧ clip = 0x1FDF ∧
  biasShifted = bias >>> 2 ∧ biasShifted = 33 ∧ biasShifted = 0x21 ∧
  mantissaMask = 0x0F ∧ mantissaMask = 15 ∧ segmentMask = 0x70 ∧ segmentMask = 112 ∧ signMask = 0x80 ∧ signMask = 128 ∧
  negativeMask = 0x7F ∧ negativeMask = 127 ∧ nonNegativeMask = 0xFF ∧ nonNegativeMask = 255 ∧
  overflowCode = 0x7F ∧ overflowCode = 127

/-! ### SEARCH -/

/-- R50: `SEARCH v` answers the first index, scanning the eight thresholds upward, whose entry is at or above `v`, or 8;
every `v` has one; the request word; the corner cases; the operands `ENCODE` gives it; the worked example. -/
def Obligations.SearchScansUpward : Prop :=
  let thr : List Nat := [63, 127, 255, 511, 1023, 2047, 4095, 8191]
  (∀ (v : Magnitude) (k : Nat), k ≤ 8 → (∀ j < k, thr.getD j 0 < v.toNat) → (k < 8 → v.toNat ≤ thr.getD k 0) →
    Answers (.search v) (BitVec.ofNat 16 k)) ∧
  (∀ v : Magnitude, ∃ k ≤ 8, (∀ j < k, thr.getD j 0 < v.toNat) ∧ (k < 8 → v.toNat ≤ thr.getD k 0)) ∧
  (∀ v : Magnitude, (encodeRequest (.search v)).extractLsb' 16 2 = 0b10#2 ∧
    (encodeRequest (.search v)).extractLsb' 15 1 = 0#1 ∧ (encodeRequest (.search v)).extractLsb' 0 15 = v) ∧
  Answers (.search 0#15) 0#16 ∧
  (∀ k < 8, Answers (.search (BitVec.ofNat 15 (thr.getD k 0))) (BitVec.ofNat 16 k) ∧
    Answers (.search (BitVec.ofNat 15 (thr.getD k 0 + 1))) (BitVec.ofNat 16 (k + 1))) ∧
  (∀ v : Magnitude, 8191 < v.toNat → Answers (.search v) 8#16) ∧
  (∀ x : Sample, encSegment x = segSearch (encBiased x) ∧ 33 ≤ encBiased x ∧ encBiased x ≤ 8192) ∧
  encodeRequest (.search 1984#15) = 0x207C0#18 ∧ Answers (.search 1984#15) 0x0005#16

/-- R51: a magnitude equal to a threshold gets that threshold's index, not the next. -/
def Obligations.SearchTiesGoToLowerIndex : Prop :=
  (∀ k < 8, Answers (.search (BitVec.ofNat 15 (segUend.getD k 0))) (BitVec.ofNat 16 k)) ∧
  Answers (.search 63#15) 0#16 ∧ Answers (.search 64#15) 1#16 ∧ Answers (.search 8191#15) 7#16

/-- R54: the search is total and its result lies in 0 to 8, for every natural number and for every request. -/
def Obligations.SearchTotalAndInRange : Prop :=
  (∀ v : Nat, segSearch v ≤ 8) ∧
  (∀ v : Magnitude, ∃ k ≤ 8, Answers (.search v) (BitVec.ofNat 16 k))

/-- R55: every value above 8191 gives 8, at the boundary too; inside `ENCODE` that is exactly the biased magnitude 8192,
which occurs, and the encoder has its own step for it. -/
def Obligations.SearchSentinel : Prop :=
  (∀ v : Nat, 8191 < v → segSearch v = 8) ∧
  (∀ v : Magnitude, 8192 ≤ v.toNat → Answers (.search v) 8#16) ∧
  (∀ x : Sample, encSegment x = 8 ↔ encBiased x = 8192) ∧
  (∃ x : Sample, encBiased x = 8192) ∧
  (∀ x : Sample, encSegment x = 8 → encPreMask x = 0x7F)

/-- The closed forms the spec derives (40_segment_search.md R53: "These forms are offered to the modeller as lemmas to
prove against rule R50"): the number of entries below `v`, and the bit length of `v` less 6, held to 0 to 8. -/
def Obligations.SearchClosedForms : Prop :=
  ∀ v : Nat,
    segSearch v = (segUend.filter (· < v)).length ∧
    segSearch v = min 8 (Nat.size v - 6)

/-- What the index means (derived in R56): segment 0 is 0 to 63, segment `k` from 1 to 7 is `2^(k+5)` to `2^(k+6) - 1`. -/
def Obligations.SearchSegmentBounds : Prop :=
  (∀ v : Nat, segSearch v = 0 ↔ v ≤ 63) ∧
  (∀ v k : Nat, 1 ≤ k → k ≤ 7 → (segSearch v = k ↔ 2 ^ (k + 5) ≤ v ∧ v ≤ 2 ^ (k + 6) - 1))

/-- R52: a binary search over the same table gives the same index for every value, ties included. -/
def Obligations.BinarySearchAgrees : Prop :=
  ∀ v : Nat, segSearch v =
    if v ≤ 511 then
      if v ≤ 127 then (if v ≤ 63 then 0 else 1) else (if v ≤ 255 then 2 else 3)
    else
      if v ≤ 2047 then (if v ≤ 1023 then 4 else 5)
      else if v ≤ 4095 then 6 else (if v ≤ 8191 then 7 else 8)

/-! ### ENCODE -/

/-- R60: the whole operation on exact integers, step by step; its request word; that the map is many-to-one; the worked
example. -/
def Obligations.EncodeFollowsSteps : Prop :=
  (∀ x : Sample,
    let p : Int := x.toInt >>> 2
    let m : Nat := if p < 0 then (-p).toNat else p.toNat
    let mask : Nat := if p < 0 then 0x7F else 0xFF
    let c : Nat := min m 8159
    let b : Nat := c + 33
    let k : Nat := segSearch b
    let u : Nat := if 8 ≤ k then 0x7F else (k <<< 4) ||| ((b >>> (k + 1)) &&& 0xF)
    p ≤ 8191 ∧ -8192 ≤ p ∧ (p < 0 → 1 ≤ m ∧ m ≤ 8192) ∧ (0 ≤ p → m ≤ 8191) ∧ c ≤ 8159 ∧ 33 ≤ b ∧ b ≤ 8192 ∧ k ≤ 8 ∧
    u ^^^ mask ≤ 0xFF ∧ Answers (.encode x) (BitVec.ofNat 16 (u ^^^ mask))) ∧
  (∀ x : Sample, (encodeRequest (.encode x)).extractLsb' 16 2 = 0b00#2 ∧
    (encodeRequest (.encode x)).extractLsb' 0 16 = x) ∧
  (∃ x y : Sample, x ≠ y ∧ encoderUnit x = encoderUnit y) ∧
  (let x : Sample := BitVec.ofInt 16 7804
   encShifted x = 1951 ∧ encMagnitude x = 1951 ∧ encMask x = 0xFF ∧ encClipped x = 1951 ∧ encBiased x = 1984 ∧
   encSegment x = 5 ∧ encBiased x >>> 6 = 31 ∧ encMantissa x = 15 ∧ encPreMask x = 0x5F ∧
   encodeRequest (.encode x) = 0x01E7C#18 ∧ Answers (.encode x) 0x00A0#16) ∧
  Answers (.decode 0xA0#8) (BitVec.ofInt 16 7932)

/-- The first step is the arithmetic shift, which is division by 4 rounding toward minus infinity and not toward zero
(R61; 90_conflicts.md C1). -/
def Obligations.EncodeShiftIsFloor : Prop :=
  (∀ x : Sample, encShifted x = x.toInt / 4) ∧
  (∀ n : Nat, 1 ≤ n → n ≤ 4 → encShifted (BitVec.ofInt 16 (-(n : Int))) = -1) ∧
  encShifted (BitVec.ofInt 16 (-5)) = -2 ∧
  (∃ x : Sample, encShifted x ≠ x.toInt.tdiv 4)

/-- The ranges of the encoder's wires over all samples (derived in 10_state.md R16 and 41_ulaw_encode.md R70). -/
def Obligations.EncodeWireRanges : Prop :=
  ∀ x : Sample,
    (-8192 ≤ encShifted x ∧ encShifted x ≤ 8191) ∧
    (encMask x = if encShifted x < 0 then 0x7F else 0xFF) ∧
    encMagnitude x ≤ 8192 ∧ (encMagnitude x = 8192 ↔ x.toInt ≤ -32765) ∧
    encClipped x ≤ 8159 ∧ (33 ≤ encBiased x ∧ encBiased x ≤ 8192) ∧
    encSegment x ≤ 8 ∧ encMantissa x ≤ 15 ∧ encPreMask x ≤ 0x7F ∧ ulawEncode x ≤ 0xFF

/-- The mantissa is the four bits below the leading one (derived in R71). -/
def Obligations.EncodeMantissaBelowLeadingOne : Prop :=
  ∀ x : Sample, encSegment x < 8 →
    16 ≤ encBiased x >>> (encSegment x + 1) ∧ encBiased x >>> (encSegment x + 1) ≤ 31 ∧
    encMantissa x = encBiased x >>> (encSegment x + 1) - 16

/-- Index 8 is reached, and exactly at the clip value; the code is continuous across it (derived in R72; C3). -/
def Obligations.EncodeReachesIndexEight : Prop :=
  ∀ x : Sample,
    (encSegment x = 8 ↔ encBiased x = 8192) ∧
    (encBiased x = 8192 ↔ encClipped x = 8159) ∧
    (encClipped x = 8159 ↔ 8159 ≤ encMagnitude x) ∧
    (8159 ≤ encMagnitude x ↔ 32636 ≤ x.toInt ∨ x.toInt ≤ -32633) ∧
    (encSegment x = 8 → encPreMask x = 0x7F) ∧
    (encMagnitude x = 8158 → encBiased x = 8191 ∧ encSegment x = 7 ∧ encPreMask x = 0x7F)

/-- `ENCODE` produces every code but 0x7F: 0x80 to 0xFF for non-negative samples, 0x00 to 0x7E for negative ones
(R100 for the range; the sharper part is derived in R74). -/
def Obligations.EncodeProducesAllButOneCode : Prop :=
  (∀ x : Sample, 0 ≤ x.toInt → 0x80 ≤ (encoderUnit x).toNat) ∧
  (∀ x : Sample, x.toInt < 0 → (encoderUnit x).toNat ≤ 0x7E) ∧
  (∀ cd : Code, cd ≠ 0x7F#8 → ∃ x : Sample, encoderUnit x = cd)

/-- Which samples give which code (derived in R75): for segment `k` and mantissa `q`, exactly the listed interval of each
sign answers the cell's code; the top cell runs to the end of the domain. -/
def Obligations.EncodeIntervalOfEachCode : Prop :=
  ∀ (k q : Nat), k < 8 → q < 16 → ∀ x : Sample,
    let bLo : Nat := max 33 ((16 + q) <<< (k + 1))
    let bHi : Nat := ((17 + q) <<< (k + 1)) - 1
    let mLo : Int := (bLo : Int) - 33
    let mHi : Int := (bHi : Int) - 33
    (Answers (.encode x) (BitVec.ofNat 16 (((k <<< 4) ||| q) ^^^ 0xFF)) ↔
      4 * mLo ≤ x.toInt ∧ (x.toInt ≤ 4 * mHi + 3 ∨ (k = 7 ∧ q = 15))) ∧
    (Answers (.encode x) (BitVec.ofNat 16 (((k <<< 4) ||| q) ^^^ 0x7F)) ↔
      x.toInt < 0 ∧ x.toInt ≤ -4 * mLo + 3 ∧ (-4 * mHi ≤ x.toInt ∨ (k = 7 ∧ q = 15)))

/-- The layout of a code on the wire (R41; 90_conflicts.md C2): bit 7 is the polarity, bits 6 to 4 the inverted segment,
bits 3 to 0 the inverted mantissa; index 8 appears as segment 7 with mantissa 15. -/
def Obligations.EncodeCodeLayout : Prop :=
  ∀ x : Sample,
    ((encoderUnit x).extractLsb' 7 1 = 1#1 ↔ 0 ≤ encShifted x) ∧
    (encSegment x < 8 →
      ((encoderUnit x).extractLsb' 4 3).toNat = 7 - encSegment x ∧
      ((encoderUnit x).extractLsb' 0 4).toNat = 15 - encMantissa x) ∧
    (encSegment x = 8 → (encoderUnit x).extractLsb' 0 7 = 0#7)

/-- Saturation (R104): a magnitude above 8159 gets the code of magnitude 8159 of the same sign; concretely 0x80 from
32636 up and 0x00 from -32633 down (these bounds are derived in R104). -/
def Obligations.EncodeSaturates : Prop :=
  (∀ x y : Sample, 8159 < encMagnitude x → encMagnitude y = 8159 → encNegative x = encNegative y →
    encoderUnit x = encoderUnit y) ∧
  (∀ x : Sample, 32636 ≤ x.toInt → Answers (.encode x) 0x0080#16) ∧
  (∀ x : Sample, x.toInt ≤ -32633 → Answers (.encode x) 0x0000#16)

/-- The two low bits of the sample do not matter, and more samples than those share a code (derived in R111). -/
def Obligations.EncodeIgnoresLowBits : Prop :=
  (∀ x y : Sample, x.extractLsb' 2 14 = y.extractLsb' 2 14 → ∃ r, Answers (.encode x) r ∧ Answers (.encode y) r) ∧
  (∃ x y : Sample, x.extractLsb' 2 14 ≠ y.extractLsb' 2 14 ∧ ∃ r, Answers (.encode x) r ∧ Answers (.encode y) r)

/-- Code order (derived in R112): on the non-negative side the code falls as the sample rises, on the negative side it
falls as the sample falls; with the ends of both sides. -/
def Obligations.EncodeCodeOrder : Prop :=
  (∀ x y : Sample, 0 ≤ x.toInt → x.toInt ≤ y.toInt → (encoderUnit y).toNat ≤ (encoderUnit x).toNat) ∧
  (∀ x y : Sample, y.toInt < 0 → x.toInt ≤ y.toInt → (encoderUnit x).toNat ≤ (encoderUnit y).toNat) ∧
  encoderUnit (BitVec.ofInt 16 0) = 0xFF#8 ∧ encoderUnit (BitVec.ofInt 16 32767) = 0x80#8 ∧
  encoderUnit (BitVec.ofInt 16 (-1)) = 0x7E#8 ∧ encoderUnit (BitVec.ofInt 16 (-32768)) = 0x00#8

/-! ### DECODE -/

/-- R80: the whole operation on exact integers, step by step; its request word; the corner cases; the worked example. -/
def Obligations.DecodeFollowsSteps : Prop :=
  (∀ cd : Code,
    let u : Nat := 255 - cd.toNat
    let q : Nat := u &&& 0x0F
    let t0 : Nat := (q <<< 3) + 132
    let k : Nat := (u &&& 0x70) >>> 4
    let t : Nat := t0 <<< k
    let y : Int := if (u &&& 0x80) ≠ 0 then 132 - (t : Int) else (t : Int) - 132
    q ≤ 15 ∧ 132 ≤ t0 ∧ t0 ≤ 252 ∧ k ≤ 7 ∧ 132 ≤ t ∧ t ≤ 32256 ∧ ((u &&& 0x80) ≠ 0 ↔ cd.extractLsb' 7 1 = 0#1) ∧
    (-32124 ≤ y ∧ y ≤ 32124) ∧ Answers (.decode cd) (BitVec.ofInt 16 y)) ∧
  (∀ cd : Code, (encodeRequest (.decode cd)).extractLsb' 16 2 = 0b01#2 ∧
    (encodeRequest (.decode cd)).extractLsb' 8 8 = 0#8 ∧ (encodeRequest (.decode cd)).extractLsb' 0 8 = cd) ∧
  Answers (.decode 0xFF#8) (BitVec.ofInt 16 0) ∧ Answers (.decode 0x7F#8) (BitVec.ofInt 16 0) ∧
  Answers (.decode 0x00#8) (BitVec.ofInt 16 (-32124)) ∧ Answers (.decode 0x80#8) (BitVec.ofInt 16 32124) ∧
  decComplement 0x01#8 = 0xFE ∧ decMantissa 0x01#8 = 14 ∧ decBase 0x01#8 = 244 ∧ decSegment 0x01#8 = 7 ∧
  decScaled 0x01#8 = 31232 ∧ decSign 0x01#8 = 0x80 ∧
  encodeRequest (.decode 0x01#8) = 0x10001#18 ∧ BitVec.ofInt 16 (-31100) = 0x8684#16 ∧
  Answers (.decode 0x01#8) 0x8684#16

/-- The ranges of the decoder's wires over all codes (derived in 10_state.md R17 and 42_ulaw_decode.md R86), and that
the sample on the wire denotes the exact result. -/
def Obligations.DecodeWireRanges : Prop :=
  ∀ cd : Code,
    decMantissa cd ≤ 15 ∧ (132 ≤ decBase cd ∧ decBase cd ≤ 252) ∧ decSegment cd ≤ 7 ∧
    (132 ≤ decScaled cd ∧ decScaled cd ≤ 32256) ∧ (decSign cd = 0 ∨ decSign cd = 0x80) ∧
    (-32124 ≤ ulawDecode cd ∧ ulawDecode cd ≤ 32124) ∧ (decoderUnit cd).toInt = ulawDecode cd

/-- The closed form (derived in R87), on the fields of the code as it stands on the wire. -/
def Obligations.DecodeClosedForm : Prop :=
  ∀ cd : Code,
    let q : Nat := 15 - (cd.extractLsb' 0 4).toNat
    let k : Nat := 7 - (cd.extractLsb' 4 3).toNat
    let mag : Int := ((2 * q + 33 : Nat) : Int) * 2 ^ (k + 2) - 132
    Answers (.decode cd) (BitVec.ofInt 16 (if cd.extractLsb' 7 1 = 0#1 then -mag else mag))

/-- Flipping bit 7 of a code negates the sample, and exactly two codes give 0 (derived in R88; C4). -/
def Obligations.DecodeSignSymmetry : Prop :=
  (∀ (cd : Code) (r : ResponseWord), Answers (.decode cd) r → Answers (.decode (cd ^^^ 0x80#8)) (-r)) ∧
  (∀ cd : Code, Answers (.decode cd) 0#16 ↔ cd = 0xFF#8 ∨ cd = 0x7F#8)

/-- The decoder's complement recovers the encoder's byte before the mask, with bit 7 set exactly for a negative sample
(derived in R81; C8). -/
def Obligations.DecodeRecoversPreMask : Prop :=
  ∀ x : Sample, decComplement (encoderUnit x) = if encNegative x then encPreMask x ||| 0x80 else encPreMask x

/-! ### Composition -/

/-- R105: the six known values, each operation's answer and the value the host ends with. -/
def Obligations.KnownValues : Prop :=
  Answers (.decode 1#8) (BitVec.ofInt 16 (-31100)) ∧
  (Answers (.encode (BitVec.ofInt 16 (-8031))) 0x0020#16 ∧ Answers (.decode 0x20#8) (BitVec.ofInt 16 (-7932)) ∧
    (roundTrip (BitVec.ofInt 16 (-8031))).toInt = -7932) ∧
  (Answers (.encode (BitVec.ofInt 16 0)) 0x00FF#16 ∧ Answers (.decode 0xFF#8) (BitVec.ofInt 16 0) ∧
    (roundTrip (BitVec.ofInt 16 0)).toInt = 0) ∧
  (Answers (.encode (BitVec.ofInt 16 4)) 0x00FE#16 ∧ Answers (.decode 0xFE#8) (BitVec.ofInt 16 8) ∧
    (roundTrip (BitVec.ofInt 16 4)).toInt = 8) ∧
  (Answers (.encode (BitVec.ofInt 16 7804)) 0x00A0#16 ∧ Answers (.decode 0xA0#8) (BitVec.ofInt 16 7932) ∧
    (roundTrip (BitVec.ofInt 16 7804)).toInt = 7932) ∧
  (Answers (.encode (BitVec.ofInt 16 (-120))) 0x0070#16 ∧ Answers (.decode 0x70#8) (BitVec.ofInt 16 (-120)) ∧
    (roundTrip (BitVec.ofInt 16 (-120))).toInt = -120)

/-- The samples that round-trip to 0 are exactly 0, 1, 2 and 3, and -1 round-trips to -8 (R102; the set is derived
there; 90_conflicts.md C5). -/
def Obligations.RoundTripToZero : Prop :=
  (∀ x : Sample, (roundTrip x).toInt = 0 ↔ 0 ≤ x.toInt ∧ x.toInt ≤ 3) ∧
  (roundTrip (BitVec.ofInt 16 (-1))).toInt = -8

/-- The round trip is non-decreasing in the signed sample (R103; over the whole domain this is derived there). -/
def Obligations.RoundTripMonotone : Prop :=
  ∀ x y : Sample, x.toInt ≤ y.toInt → (roundTrip x).toInt ≤ (roundTrip y).toInt

/-- Re-encoding a decoded code gives the code back, but for 0x7F, which gives 0xFF; the fixed points of the round trip
are exactly the samples `DECODE` produces (derived in R107). -/
def Obligations.ReencodeGivesCodeBack : Prop :=
  (∀ cd : Code, cd ≠ 0x7F#8 → encoderUnit (decoderUnit cd) = cd) ∧
  encoderUnit (decoderUnit 0x7F#8) = 0xFF#8 ∧
  (∀ y : Sample, roundTrip y = y ↔ ∃ cd : Code, decoderUnit cd = y)

/-- The round trip is idempotent and keeps the code (derived in R108). -/
def Obligations.RoundTripIdempotent : Prop :=
  ∀ x : Sample, roundTrip (roundTrip x) = roundTrip x ∧ encoderUnit (roundTrip x) = encoderUnit x

/-- The round-trip error by segment and sign (the table derived in R109), below the quantisation step of the segment,
and at most 644 in magnitude, which it reaches. -/
def Obligations.RoundTripError : Prop :=
  (∀ x : Sample,
    let e : Int := (roundTrip x).toInt - x.toInt
    let k : Nat := encSegment x
    (k < 8 → 0 ≤ encShifted x → -(2 ^ (k + 2)) + 1 ≤ e ∧ e ≤ 2 ^ (k + 2)) ∧
    (k < 8 → encShifted x < 0 → -(2 ^ (k + 2)) - 3 ≤ e ∧ e ≤ 2 ^ (k + 2) - 4) ∧
    (k = 8 → 0 ≤ encShifted x → -643 ≤ e ∧ e ≤ -512) ∧
    (k = 8 → encShifted x < 0 → 509 ≤ e ∧ e ≤ 644) ∧
    (k < 8 → |e| < 2 ^ (k + 3)) ∧ |e| ≤ 644) ∧
  (roundTrip (BitVec.ofInt 16 (-32768))).toInt - (-32768) = 644 ∧
  (roundTrip (BitVec.ofInt 16 32767)).toInt - 32767 = -643

/-- The round trip keeps the sign (derived in R110). -/
def Obligations.RoundTripKeepsSign : Prop :=
  ∀ x : Sample, (0 ≤ x.toInt → 0 ≤ (roundTrip x).toInt) ∧ (x.toInt < 0 → (roundTrip x).toInt < 0)

/-- The negative controls of 95_test_vectors.md section 2.5: what a model should refute. -/
def Obligations.NegativeControls : Prop :=
  ¬ Answers (.encode (BitVec.ofInt 16 (-1))) 0x00FF#16 ∧
  ¬ Answers (.search 63#15) 1#16 ∧
  ¬ Answers (.encode (BitVec.ofInt 16 32767)) 0x00FF#16 ∧
  ¬ Answers (.decode 0x00#8) (BitVec.ofInt 16 (-32768)) ∧
  ¬ (∀ x : Sample, encSegment x < 8) ∧
  (roundTrip (BitVec.ofInt 16 (-1))).toInt ≠ 0

/-- `ROUNDTRIP x` is two requests, the host carrying the code of the first response into the second (R40). -/
def Obligations.RoundTripIsTwoRequests : Prop :=
  ∀ (x : Sample) (s : State), ∃ (r : ResponseWord) (t : State),
    step (present (encodeRequest (.encode x)) s) = .next t ∧
    t = { pending := s.pending, history := s.history ++ [⟨encodeRequest (.encode x), r⟩] } ∧
    step (present (encodeRequest (.decode (codeOfResponse r))) t) =
      .next { pending := s.pending,
              history := t.history ++ [⟨encodeRequest (.decode (codeOfResponse r)), roundTrip x⟩] }

/-- The port view and the request-word view compute the same functions (R44). -/
def Obligations.PortViewAgrees : Prop :=
  ∀ p : PortInputs,
    Answers (.encode p.encSample) ((blockPorts p).encCode.setWidth 16) ∧
    Answers (.decode p.decCode) (blockPorts p).decSample ∧
    Answers (.search p.segV) ((blockPorts p).segIndex.setWidth 16)

/-! ### Text -/

/-- An operation written as a line reads back as itself, at every operand (R39; spelling details are log entry 10). -/
def Obligations.OperationTextReadsBack : Prop :=
  ∀ i : Instr, readLine (operationText i) = some i

/-- The three example lines of R39, and for each operation a line with a decimal operand and a line with a hex operand
(a negative decimal too for `ENCODE`). That hex digits are capitals and that a hex `SEARCH` operand may have three digits
is the model's choice (log entry 10). -/
def Obligations.TextExamples : Prop :=
  transactionText (.encode (BitVec.ofInt 16 7804)) =
    ['E', 'N', 'C', 'O', 'D', 'E', ' ', '7', '8', '0', '4', ' ', '-', '>', ' ', '0', 'x', 'A', '0'] ∧
  transactionText (.decode 0xA0#8) =
    ['D', 'E', 'C', 'O', 'D', 'E', ' ', '0', 'x', 'A', '0', ' ', '-', '>', ' ', '7', '9', '3', '2'] ∧
  transactionText (.search 1984#15) =
    ['S', 'E', 'A', 'R', 'C', 'H', ' ', '1', '9', '8', '4', ' ', '-', '>', ' ', '5'] ∧
  readLine ['E', 'N', 'C', 'O', 'D', 'E', ' ', '0', 'x', 'F', 'F', '8', '8'] = some (.encode (BitVec.ofInt 16 (-120))) ∧
  readLine ['E', 'N', 'C', 'O', 'D', 'E', ' ', '-', '1', '2', '0'] = some (.encode (BitVec.ofInt 16 (-120))) ∧
  readLine ['E', 'N', 'C', 'O', 'D', 'E', ' ', '7', '8', '0', '4'] = some (.encode (BitVec.ofInt 16 7804)) ∧
  readLine ['D', 'E', 'C', 'O', 'D', 'E', ' ', '0', 'x', 'A', '0'] = some (.decode 0xA0#8) ∧
  readLine ['D', 'E', 'C', 'O', 'D', 'E', ' ', '1', '6', '0'] = some (.decode 0xA0#8) ∧
  readLine ['S', 'E', 'A', 'R', 'C', 'H', ' ', '1', '9', '8', '4'] = some (.search 1984#15) ∧
  readLine ['S', 'E', 'A', 'R', 'C', 'H', ' ', '0', 'x', '7', 'C', '0'] = some (.search 1984#15)
end

