-- ==== Sys2Proof/Config.lean ====
section
/-! DEFINITION. What an implementation of the block fixes and the spec leaves open.
The numeric constants are NOT here: none is configurable (00_scope.md R4, 10_state.md R13); they are definitions of
Machine/Constants.lean. -/

namespace Sys2Proof

/-- `T_PD`, the delay from request to response, an open parameter (70_reset_and_hazards.md R135, U8, D12; log entry 8).
No rule depends on it and the model has no notion of time, so nothing reads it; no value of it can be proved. -/
opaque Config.propagationDelay : Nat

end Sys2Proof
end

