-- ==== Sys2Proof/Laws/Encoding.lean ====
section
/-! SUPPORT. The fields of a request word, read back and as numbers. -/

namespace Sys2Proof

@[simp] theorem opField_requestWord (op : BitVec 2) (f : BitVec 16) : opField (requestWord op f) = op := by
  ext i hi
  interval_cases i <;> simp [opField, requestWord]

@[simp] theorem operandField_requestWord (op : BitVec 2) (f : BitVec 16) : operandField (requestWord op f) = f := by
  ext i hi
  have h : i < 18 := by omega
  simp [operandField, requestWord, hi, h]

/-- A request word is its two fields and nothing more (R30). -/
theorem requestWord_fields (w : RequestWord) : requestWord (opField w) (operandField w) = w := by
  ext i hi
  by_cases h : i < 16
  · simp [requestWord, opField, operandField, h, BitVec.getLsbD_eq_getElem hi]
  · have h1 : i = 16 ∨ i = 17 := by omega
    rcases h1 with rfl | rfl <;> simp [requestWord, opField, operandField]

/-- A request word under a mask, field by field. -/
theorem requestWord_and (op mop : BitVec 2) (f mf : BitVec 16) :
    requestWord op f &&& requestWord mop mf = requestWord (op &&& mop) (f &&& mf) := by
  have h1 (x y : RequestWord) : opField (x &&& y) = opField x &&& opField y := by
    simp only [opField]; ext i hi; simp
  have h2 (x y : RequestWord) : operandField (x &&& y) = operandField x &&& operandField y := by
    simp only [operandField]; ext i hi; simp
  rw [← requestWord_fields (requestWord op f &&& requestWord mop mf)]
  simp only [h1, h2, opField_requestWord, operandField_requestWord]

theorem toNat_requestWord (op : BitVec 2) (f : BitVec 16) :
    (requestWord op f).toNat = 65536 * op.toNat + f.toNat := by
  have ho := op.isLt
  have hf := f.isLt
  have h := Nat.two_pow_add_eq_or_of_lt hf op.toNat
  simp only [requestWord, BitVec.toNat_or, BitVec.toNat_shiftLeft, BitVec.toNat_setWidth, Nat.shiftLeft_eq]
  rw [Nat.mod_eq_of_lt (a := op.toNat) (by omega), Nat.mod_eq_of_lt (a := f.toNat) (by omega),
    Nat.mod_eq_of_lt (by omega), mul_comm op.toNat, ← h]

theorem toNat_encodeRequest : ∀ i : Instr, (encodeRequest i).toNat = match i with
    | .encode s => s.toNat
    | .decode cd => 0x10000 + cd.toNat
    | .search v => 0x20000 + v.toNat
  | .encode s => by simp [encodeRequest, toNat_requestWord]
  | .decode cd => by
    simp only [encodeRequest, toNat_requestWord, BitVec.toNat_setWidth]
    have := cd.isLt
    simp; omega
  | .search v => by
    simp only [encodeRequest, toNat_requestWord, BitVec.toNat_setWidth]
    have := v.isLt
    simp; omega

end Sys2Proof
end

