-- ==== Sys2Proof/Laws/State.lean ====
section
/-! SUPPORT. What each update of the state does to each field, by `rfl`, for simp. -/

namespace Sys2Proof.Machine

variable (w : RequestWord) (s : State) (q : List RequestWord) (h : List Transaction)

@[simp] theorem present_pending : (present w s).pending = w :: s.pending := rfl
@[simp] theorem present_history : (present w s).history = s.history := rfl

@[simp] theorem State.pending_with_pending : ({ s with pending := q } : State).pending = q := rfl
@[simp] theorem State.history_with_pending : ({ s with pending := q } : State).history = s.history := rfl
@[simp] theorem State.pending_with_history : ({ s with history := h } : State).pending = s.pending := rfl
@[simp] theorem State.history_with_history : ({ s with history := h } : State).history = h := rfl

@[simp] theorem State.reset_pending : State.reset.pending = [] := rfl
@[simp] theorem State.reset_history : State.reset.history = [] := rfl

/-- Two states with the same fields are the same state. -/
theorem State.ext_fields {s t : State} (hp : s.pending = t.pending) (hh : s.history = t.history) : s = t := by
  cases s; cases t; simp_all

end Sys2Proof.Machine
end

