-- ==== Sys2Proof/Laws/Ops.lean ====
section
/-! SUPPORT. What each shared operation can do, said once, and the inversion of a step. -/

namespace Sys2Proof.Machine

theorem takeRequest_eq_none {s : State} : takeRequest s = none ↔ s.pending = [] := by
  unfold takeRequest; split <;> simp_all

/-- Taking a request removes the oldest one and nothing else. -/
theorem takeRequest_eq_some {s s' : State} {w : RequestWord} :
    takeRequest s = some (w, s') ↔ s.pending = w :: s'.pending ∧ s'.history = s.history := by
  obtain ⟨p, h⟩ := s
  obtain ⟨p', h'⟩ := s'
  cases p with
  | nil => simp [takeRequest]
  | cons a p => simp [takeRequest, eq_comm (a := h), and_assoc]

@[simp] theorem takeRequest_present (w : RequestWord) (s : State) : takeRequest (present w s) = some (w, s) := rfl

/-- A delivery records one transaction and always completes. -/
theorem deliver_eq_next {i : Instr} {r : ResponseWord} {s t : State} :
    deliver i r s = .next t ↔ t.pending = s.pending ∧ t.history = s.history ++ [⟨encodeRequest i, r⟩] := by
  obtain ⟨p, h⟩ := t
  simp [deliver, eq_comm]

theorem idle_eq_next {s t : State} : idle s = .next t ↔ t = s := by
  simp [idle, eq_comm]

theorem refuse_ne_next (r : Reserved) (t : State) : refuse r ≠ .next t := by
  simp [refuse]

theorem refuse_eq_refused {r : Reserved} {e : Refusal} : refuse r = .refused e ↔ e = refusalOf r := by
  simp [refuse, eq_comm]

theorem refusalOf_injective : Function.Injective refusalOf := by
  intro a b; cases a <;> cases b <;> simp [refusalOf]

/-- Every operation delivers its own function value: the three arms of `exec` at once. -/
theorem exec_eq_deliver (i : Instr) (s : State) : exec i s = deliver i (response i) s := by
  cases i <;> rfl

theorem answers_iff {i : Instr} {r : ResponseWord} : Answers i r ↔ r = response i := by
  constructor
  · intro h
    have := h State.reset
    rw [exec_eq_deliver, deliver_eq_next] at this
    simpa using this.2
  · rintro rfl s
    rw [exec_eq_deliver]; rfl

/-- The step on a state whose next request is in sight. -/
theorem step_present (w : RequestWord) (s : State) :
    step (present w s) = match decodeRequest w with | .ok i => exec i s | .error r => refuse r := rfl

/-- All that a step can do when it answers a next state. -/
theorem step_cases {s t : State} (h : step s = .next t) :
    (s.pending = [] ∧ t = s) ∨
    ∃ w i, s.pending = w :: t.pending ∧ decodeRequest w = .ok i ∧
      t.history = s.history ++ [⟨encodeRequest i, response i⟩] := by
  unfold step at h
  split at h
  next h0 => exact .inl ⟨takeRequest_eq_none.1 h0, idle_eq_next.1 h⟩
  next w s' h0 =>
    obtain ⟨hp, hh⟩ := takeRequest_eq_some.1 h0
    split at h
    next i hi =>
      rw [exec_eq_deliver, deliver_eq_next] at h
      exact .inr ⟨w, i, by rw [hp, h.1], hi, by rw [h.2, hh]⟩
    next r _ => exact absurd h (refuse_ne_next r t)

end Sys2Proof.Machine
end

