-- ==== Sys2Proof/Laws/PerInstr.lean ====
section
/-! SUPPORT. Statements about every operation as syntax, one lemma per constructor. -/

namespace Sys2Proof.Laws.EncodingAccepted

/-- The request word of the operation is outside the reserved space of R36: it selects a row of the opcode table. -/
def Statement (i : Instr) : Prop := wellFormedWord (encodeRequest i) = true

theorem encode (s : Sample) : Statement (.encode s) := by
  have h : rowSelects encodeRow (encodeRequest (.encode s)) = true := by
    rw [rowSelects, show encodeRow.mask = requestWord 0b11#2 0#16 from rfl, encodeRequest, requestWord_and]
    simp [encodeRow]; rfl
  simp [Statement, wellFormedWord, opcodeRows, h]

theorem decode (cd : Code) : Statement (.decode cd) := by
  have h : rowSelects decodeRow (encodeRequest (.decode cd)) = true := by
    have hz : cd.setWidth 16 &&& 0xFF00#16 = 0#16 := by
      ext i hi
      interval_cases i <;> simp
    rw [rowSelects, show decodeRow.mask = requestWord 0b11#2 0xFF00#16 from rfl, encodeRequest, requestWord_and, hz]
    rfl
  simp [Statement, wellFormedWord, opcodeRows, h]

theorem search (v : Magnitude) : Statement (.search v) := by
  have h : rowSelects searchRow (encodeRequest (.search v)) = true := by
    have hz : v.setWidth 16 &&& 0x8000#16 = 0#16 := by
      ext i hi
      interval_cases i <;> simp
    rw [rowSelects, show searchRow.mask = requestWord 0b11#2 0x8000#16 from rfl, encodeRequest, requestWord_and, hz]
    rfl
  simp [Statement, wellFormedWord, opcodeRows, h]

end Sys2Proof.Laws.EncodingAccepted
end

