-- ==== Sys2Proof/Laws/Units.lean ====
section
/-! SUPPORT. The pieces the units are made of, in arithmetic: the scan of the table written out, masks as remainders,
shifts as divisions, the two XORs as subtractions. -/

namespace Sys2Proof.Machine

/-- The scan over the eight entries, written out (R50). -/
theorem segSearch_eq (v : Nat) :
    segSearch v =
      if v ≤ 63 then 0 else if v ≤ 127 then 1 else if v ≤ 255 then 2 else if v ≤ 511 then 3
      else if v ≤ 1023 then 4 else if v ≤ 2047 then 5 else if v ≤ 4095 then 6 else if v ≤ 8191 then 7 else 8 := rfl

@[simp] theorem biasShifted_eq : biasShifted = 33 := rfl

theorem and_mantissaMask (n : Nat) : n &&& mantissaMask = n % 16 := Nat.and_two_pow_sub_one_eq_mod n 4

theorem encMantissa_eq (s : Sample) : encMantissa s = encBiased s / 2 ^ (encSegment s + 1) % 16 := by
  rw [encMantissa, and_mantissaMask, Nat.shiftRight_eq_div_pow]

/-- Segment and mantissa occupy disjoint fields (R67). -/
theorem segment_or_mantissa {k q : Nat} (hq : q < 16) : (k <<< 4) ||| q = 16 * k + q := by
  rw [Nat.shiftLeft_eq, mul_comm k, ← Nat.two_pow_add_eq_or_of_lt (i := 4) (by simpa using hq)]

/-- XOR with 0xFF on a byte (R68). -/
theorem xor_nonNegativeMask {u : Nat} (hu : u < 128) : u ^^^ nonNegativeMask = 255 - u := by
  have : ∀ u < 128, u ^^^ nonNegativeMask = 255 - u := by decide
  exact this u hu

/-- XOR with 0x7F on a byte whose bit 7 is 0 (R68). -/
theorem xor_negativeMask {u : Nat} (hu : u < 128) : u ^^^ negativeMask = 127 - u := by
  have : ∀ u < 128, u ^^^ negativeMask = 127 - u := by decide
  exact this u hu

/-- The complement of a byte as a number (R81). -/
theorem decComplement_eq (cd : Code) : decComplement cd = 255 - cd.toNat := by
  simp [decComplement, BitVec.toNat_not]

theorem decMantissa_eq (cd : Code) : decMantissa cd = decComplement cd % 16 := and_mantissaMask _

theorem decBase_eq (cd : Code) : decBase cd = 8 * decMantissa cd + 132 := by
  rw [decBase, Nat.shiftLeft_eq, mul_comm]; rfl

end Sys2Proof.Machine
end

