-- ==== Sys2Proof/Machine/Flags.lean ====
section
/-! DEFINITION. Flags: the block has none. "No operation has a side result" (10_state.md, after R13); R50, R60 and R80
each say "Flags written. None". Saturation leaves no trace (60_exceptions.md R121). So there is no flag computation to
write, and this file declares nothing. -/
end

