-- ==== Sys2Proof/Tests/Slice0.lean ====
section
/-! SUPPORT. The model's own tests: expected values from 95_test_vectors.md and 30_encoding.md, and for each statement
with hypotheses a witness that meets them, at the boundary of each clause. -/

namespace Sys2Proof.Tests

open Sys2Proof.Machine

/-- The transactions after a step that answers a next state. -/
def historyAfter : Result → Option (List Transaction)
  | .next s => some s.history
  | .fault _ => none
  | .refused _ => none

/-- The name a step is refused under. -/
def refusalAfter : Result → Option Refusal
  | .next _ => none
  | .fault _ => none
  | .refused r => some r

/-- A host with the given requests to make, nothing answered yet. -/
def hostWith (q : List RequestWord) : State := { pending := q, history := [] }

/-- A PCM sample by its integer value. -/
def pcm (i : Int) : Sample := BitVec.ofInt 16 i

/-! ### Well-formed words: one ill-formed word per check (95_test_vectors.md section 2.7) -/

theorem test_selector_11_is_ill_formed : wellFormedWord 0x30000#18 = false ∧ wellFormedWord 0x3FFFF#18 = false := by decide
theorem test_decode_upper_bits_is_ill_formed : wellFormedWord 0x10100#18 = false ∧ wellFormedWord 0x1FFFF#18 = false := by decide
theorem test_search_bit_15_is_ill_formed : wellFormedWord 0x28000#18 = false ∧ wellFormedWord 0x2FFFF#18 = false := by decide
theorem test_nearest_words_are_well_formed :
    wellFormedWord 0x27FFF#18 = true ∧ wellFormedWord 0x100FF#18 = true ∧ wellFormedWord 0x20000#18 = true ∧
    wellFormedWord 0x0FFFF#18 = true := by decide

/-! ### Decoding: words written out bit by bit from R30, R32 to R35 -/

/-- `op` 00, operand -8031 = 0xE0A1 (95_test_vectors.md section 1.1). -/
theorem test_word_of_encode : decodeRequest 0b00_1110000010100001#18 = .ok (.encode (pcm (-8031))) := by decide
/-- `op` 01, zeros, code 0x01. -/
theorem test_word_of_decode : decodeRequest 0b01_00000000_00000001#18 = .ok (.decode 0x01#8) := by decide
/-- `op` 10, zero, magnitude 1984. -/
theorem test_word_of_search : decodeRequest 0b10_0_000011111000000#18 = .ok (.search 1984#15) := by decide
theorem test_reserved_words_by_name :
    decodeRequest 0b11_0000000000000000#18 = .error .selector ∧
    decodeRequest 0b01_00000001_00000000#18 = .error .decodeUpper ∧
    decodeRequest 0b10_1_000000000000000#18 = .error .searchTop := by decide
theorem test_table_word : decodeTableWord 18 0x207C0 = some (.search 1984#15) ∧ decodeTableWord 24 0x10001 = some (.decode 0x01#8) ∧
    decodeTableWord 24 0x40000 = none := by decide

/-! ### One step each (95_test_vectors.md sections 1.1, 2.1, 2.2, 2.4) -/

/-- The shift rounds toward minus infinity: -1 encodes as 0x7E, not 0xFF. -/
theorem test_encode_minus_one : historyAfter (step (hostWith [0x0FFFF#18])) = some [⟨0x0FFFF#18, 0x007E#16⟩] := by decide
/-- The least sample: its negated shifted value is 8192, clipped; index 8. -/
theorem test_encode_least : historyAfter (step (hostWith [0x08000#18])) = some [⟨0x08000#18, 0x0000#16⟩] := by decide
/-- `decode(1) == -31100`. -/
theorem test_decode_one : historyAfter (step (hostWith [0x10001#18])) = some [⟨0x10001#18, 0x8684#16⟩] := by decide
/-- The second code for zero, taken on the negative branch. -/
theorem test_decode_7f : historyAfter (step (hostWith [0x1007F#18])) = some [⟨0x1007F#18, 0x0000#16⟩] := by decide
/-- A tie goes to the lower index. -/
theorem test_search_tie : historyAfter (step (hostWith [0x2003F#18])) = some [⟨0x2003F#18, 0x0000#16⟩] := by decide
/-- The sentinel, one above the last threshold. -/
theorem test_search_sentinel : historyAfter (step (hostWith [0x22000#18])) = some [⟨0x22000#18, 0x0008#16⟩] := by decide

theorem test_reserved_step : refusalAfter (step (hostWith [0x10100#18])) = some .reservedDecodeUpper := by decide
theorem test_fetch_word_runs_first :
    historyAfter (step (State.reset.withFetchWord 18 0x01E7C)) = some [⟨0x01E7C#18, 0x00A0#16⟩] := by decide
theorem test_idle : historyAfter (step State.reset) = some [] := by decide
theorem test_text_refuses_out_of_domain :
    readLine ['E', 'N', 'C', 'O', 'D', 'E', ' ', '3', '2', '7', '6', '8'] = none ∧
    readLine ['D', 'E', 'C', 'O', 'D', 'E', ' ', '2', '5', '6'] = none ∧
    readLine ['S', 'E', 'A', 'R', 'C', 'H', ' ', '0', 'x', '8', '0', '0', '0'] = none := by decide

/-! ### Witnesses: the hypotheses of each statement can be met -/

theorem witness_EncodeOfDecode : decodeRequest 0x27FFF#18 = .ok (.search 32767#15) := by decide

theorem witness_OperandsReadFromFields :
    (0x0FFFF#18).extractLsb' 16 2 = 0b00#2 ∧
    ((0x100FF#18).extractLsb' 16 2 = 0b01#2 ∧ (0x100FF#18).extractLsb' 8 8 = 0#8) ∧
    ((0x10100#18).extractLsb' 16 2 = 0b01#2 ∧ (0x10100#18).extractLsb' 8 8 ≠ 0#8) ∧
    ((0x27FFF#18).extractLsb' 16 2 = 0b10#2 ∧ (0x27FFF#18).extractLsb' 15 1 = 0#1) ∧
    ((0x28000#18).extractLsb' 16 2 = 0b10#2 ∧ (0x28000#18).extractLsb' 15 1 = 1#1) := by decide
theorem witness_ReservedWordsRefused :
    (0x30000#18).extractLsb' 16 2 = 0b11#2 ∧
    ((0x10100#18).extractLsb' 16 2 = 0b01#2 ∧ (0x10100#18).extractLsb' 8 8 ≠ 0#8) ∧
    ((0x28000#18).extractLsb' 16 2 = 0b10#2 ∧ (0x28000#18).extractLsb' 15 1 = 1#1) := by decide
theorem witness_ReservedWordsRefused_converse : ∃ r, step (present 0x2FFFF#18 State.reset) = .refused r := ⟨_, rfl⟩

theorem witness_StepRunsDecoded :
    (hostWith [0x207C0#18, 0x30000#18]).pending = 0x207C0#18 :: [0x30000#18] ∧
    decodeRequest 0x207C0#18 = .ok (.search 1984#15) := by decide
theorem witness_StepWithoutRequestChangesNothing : (⟨[], [⟨0x2003F#18, 0#16⟩]⟩ : State).pending = [] := rfl
theorem witness_OperationFrame : ∃ t, exec (.encode (pcm (-1))) (hostWith [0x30000#18]) = .next t := ⟨_, rfl⟩
theorem witness_SameAnswerInEveryState : ∃ i, decodeRequest 0x100FF#18 = .ok i := ⟨.decode 0xFF#8, by decide⟩

/-- One request answered, one pending. -/
def midRun : State := { pending := [0x01E7C#18], history := [⟨0x207C0#18, 0x0005#16⟩] }

theorem witness_HistoryTrueKept : HistoryTrue midRun ∧ ∃ t, step midRun = .next t := by
  refine ⟨?_, _, rfl⟩
  intro t ht
  obtain rfl : t = ⟨0x207C0#18, 0x0005#16⟩ := by simpa [midRun] using ht
  show answer 0x207C0#18 = some 0x0005#16
  decide

theorem witness_HistoryInShapeKept : HistoryInShape midRun ∧ ∃ t, step midRun = .next t := by
  refine ⟨?_, _, rfl⟩
  intro t ht
  obtain rfl : t = ⟨0x207C0#18, 0x0005#16⟩ := by simpa [midRun] using ht
  have h : decodeRequest 0x207C0#18 = .ok (.search 1984#15) := by decide
  simp [ResponseInShape, h]

theorem witness_StepKeepsIssuedRequests : ∃ t, step midRun = .next t := ⟨_, rfl⟩
theorem witness_OrderOfRequestsIsImmaterial :
    [Instr.decode 0x01#8, Instr.search 63#15].Perm [Instr.search 63#15, Instr.decode 0x01#8] := by decide

theorem witness_SearchScansUpward :
    ((1 : Nat) ≤ 8 ∧ (∀ j < 1, segUend.getD j 0 < (64#15).toNat) ∧ (1 < 8 → (64#15).toNat ≤ segUend.getD 1 0)) ∧
    ((8 : Nat) ≤ 8 ∧ (∀ j < 8, segUend.getD j 0 < (8192#15).toNat)) ∧ (0 < 8 ∧ 7 < 8) ∧ 8191 < (8192#15).toNat := by
  decide
theorem witness_SearchTiesGoToLowerIndex : (0 : Nat) < 8 ∧ (7 : Nat) < 8 := by decide
theorem witness_SearchSentinel :
    (8191 : Nat) < 8192 ∧ 8192 ≤ (8192#15).toNat ∧ 8192 ≤ (32767#15).toNat ∧ encSegment (pcm 32636) = 8 := by decide
theorem witness_SearchSegmentBounds : (1 ≤ 1 ∧ 1 ≤ 7) ∧ ((1 : Nat) ≤ 7 ∧ (7 : Nat) ≤ 7) := by decide

theorem witness_EncodeShiftIsFloor : (1 ≤ 1 ∧ 1 ≤ 4) ∧ ((1 : Nat) ≤ 4 ∧ (4 : Nat) ≤ 4) := by decide
theorem witness_EncodeMantissaBelowLeadingOne : encSegment (pcm 0) < 8 ∧ encSegment (pcm 32635) < 8 := by decide
theorem witness_EncodeReachesIndexEight :
    encSegment (pcm 32636) = 8 ∧ encSegment (pcm (-32633)) = 8 ∧
    encMagnitude (pcm 32635) = 8158 ∧ encMagnitude (pcm (-32632)) = 8158 := by decide
theorem witness_EncodeProducesAllButOneCode :
    0 ≤ (pcm 0).toInt ∧ (pcm (-1)).toInt < 0 ∧ 0x7E#8 ≠ 0x7F#8 ∧ 0x80#8 ≠ 0x7F#8 := by decide
theorem witness_EncodeIntervalOfEachCode : ((0 : Nat) < 8 ∧ (0 : Nat) < 16) ∧ (7 : Nat) < 8 ∧ (15 : Nat) < 16 := by decide
theorem witness_EncodeCodeLayout : encSegment (pcm 32635) < 8 ∧ encSegment (pcm 32636) = 8 := by decide
theorem witness_EncodeSaturates :
    (8159 < encMagnitude (pcm 32640) ∧ encMagnitude (pcm 32639) = 8159 ∧
      encNegative (pcm 32640) = encNegative (pcm 32639)) ∧
    (8159 < encMagnitude (pcm (-32637)) ∧ encMagnitude (pcm (-32636)) = 8159 ∧
      encNegative (pcm (-32637)) = encNegative (pcm (-32636))) ∧
    32636 ≤ (pcm 32636).toInt ∧ (pcm (-32633)).toInt ≤ -32633 := by decide
theorem witness_EncodeIgnoresLowBits : (pcm 4).extractLsb' 2 14 = (pcm 7).extractLsb' 2 14 ∧ pcm 4 ≠ pcm 7 := by decide
theorem witness_EncodeCodeOrder :
    (0 ≤ (pcm 0).toInt ∧ (pcm 0).toInt ≤ (pcm 32767).toInt) ∧
    ((pcm (-1)).toInt < 0 ∧ (pcm (-32768)).toInt ≤ (pcm (-1)).toInt) := by decide

theorem witness_DecodeSignSymmetry : Answers (.decode 0x80#8) 0x7D7C#16 := answers_iff.2 (by decide)

theorem witness_RoundTripMonotone : (pcm (-32768)).toInt ≤ (pcm 32767).toInt := by decide
theorem witness_ReencodeGivesCodeBack : 0x00#8 ≠ 0x7F#8 ∧ 0xFF#8 ≠ 0x7F#8 := by decide
theorem witness_RoundTripError :
    (encSegment (pcm 0) < 8 ∧ 0 ≤ encShifted (pcm 0)) ∧ (encSegment (pcm (-1)) < 8 ∧ encShifted (pcm (-1)) < 0) ∧
    (encSegment (pcm 32636) = 8 ∧ 0 ≤ encShifted (pcm 32636)) ∧
    (encSegment (pcm (-32633)) = 8 ∧ encShifted (pcm (-32633)) < 0) := by decide
theorem witness_RoundTripKeepsSign : 0 ≤ (pcm 0).toInt ∧ (pcm (-1)).toInt < 0 := by decide

end Sys2Proof.Tests
end

section
/-! Proofs about the request words (30_encoding.md Part B): the fields as numbers, the decoder on the word as a number
and on its bits, how many words there are of each kind, and what a step does with a word. -/

namespace Sys2Proof

/-! ### The fields as numbers, and the decoder on the word as a number -/

/-- A field of a word is what a division and a remainder leave of it. -/
theorem extractLsb'_eq_iff {n : Nat} (w : BitVec n) (start len : Nat) (x : BitVec len) :
    w.extractLsb' start len = x ↔ w.toNat / 2 ^ start % 2 ^ len = x.toNat := by
  rw [← BitVec.toNat_inj, BitVec.extractLsb'_toNat, Nat.shiftRight_eq_div_pow]

theorem extractLsb'_zero_eq_ofNat {n : Nat} (w : BitVec n) (len : Nat) :
    w.extractLsb' 0 len = BitVec.ofNat len w.toNat := by
  simp [extractLsb'_eq_iff]

theorem opField_eq_iff (w : RequestWord) (op : BitVec 2) : opField w = op ↔ w.toNat / 65536 = op.toNat := by
  have hw := w.isLt
  rw [opField, extractLsb'_eq_iff]
  omega

theorem operandField_toNat (w : RequestWord) : (operandField w).toNat = w.toNat % 65536 := by
  simp [operandField]

/-- R34: the upper 8 bits of a `DECODE` operand are 0 exactly when it is below 256. -/
theorem readCode_eq (f : BitVec 16) :
    readCode f = if f.toNat < 256 then .ok (.decode (.ofNat 8 f.toNat)) else .error .decodeUpper := by
  have hf := f.isLt
  have upper : f.extractLsb' 8 8 = 0#8 ↔ f.toNat < 256 := by
    rw [extractLsb'_eq_iff, BitVec.toNat_ofNat]
    omega
  simp only [readCode, upper, extractLsb'_zero_eq_ofNat]

/-- R35: bit 15 of a `SEARCH` operand is 0 exactly when it is below 32768. -/
theorem readMagnitude_eq (f : BitVec 16) :
    readMagnitude f = if f.toNat < 32768 then .ok (.search (.ofNat 15 f.toNat)) else .error .searchTop := by
  have hf := f.isLt
  have top : f.extractLsb' 15 1 = 0#1 ↔ f.toNat < 32768 := by
    rw [extractLsb'_eq_iff, BitVec.toNat_ofNat]
    omega
  simp only [readMagnitude, top, extractLsb'_zero_eq_ofNat]

/-- The decoder on the word as a number: the selector is the quotient by 65536, the operand the remainder (R30, R32). -/
theorem decodeRequest_eq (w : RequestWord) :
    decodeRequest w =
      if w.toNat / 65536 = 0 then .ok (.encode (.ofNat 16 (w.toNat % 65536)))
      else if w.toNat / 65536 = 1 then
        if w.toNat % 65536 < 256 then .ok (.decode (.ofNat 8 (w.toNat % 65536))) else .error .decodeUpper
      else if w.toNat / 65536 = 2 then
        if w.toNat % 65536 < 32768 then .ok (.search (.ofNat 15 (w.toNat % 65536))) else .error .searchTop
      else .error .selector := by
  have sample : operandField w = BitVec.ofNat 16 (w.toNat % 65536) := by
    rw [← operandField_toNat, BitVec.ofNat_toNat, BitVec.setWidth_eq]
  simp only [decodeRequest, readSample, readCode_eq, readMagnitude_eq, operandField_toNat, opField_eq_iff,
    BitVec.reduceToNat]
  rw [sample]

/-- Decoding the request word of an operation gives the operation back (R30, R32 to R35). -/
@[simp] theorem decodeRequest_encodeRequest : ∀ i : Instr, decodeRequest (encodeRequest i) = .ok i
  | .encode s => by simp [decodeRequest, encodeRequest, readSample]
  | .decode cd => by
    have hlt : cd.toNat < 256 := cd.isLt
    have hmod : cd.toNat % 65536 = cd.toNat := Nat.mod_eq_of_lt (by omega)
    simp [decodeRequest, encodeRequest, readCode_eq, hmod, hlt]
  | .search v => by
    have hlt : v.toNat < 32768 := v.isLt
    have hmod : v.toNat % 65536 = v.toNat := Nat.mod_eq_of_lt (by omega)
    simp [decodeRequest, encodeRequest, readMagnitude_eq, hmod, hlt]

theorem encodeRequest_injective : Function.Injective encodeRequest := by
  intro i j h
  have := congrArg decodeRequest h
  simpa using this

/-- Each accepted word is the request word of the operation it decodes to: no bit of it is ignored (R33 to R35). -/
theorem encodeRequest_of_decodeRequest {w : RequestWord} {i : Instr} (h : decodeRequest w = .ok i) :
    encodeRequest i = w := by
  have hw := w.isLt
  apply BitVec.eq_of_toNat_eq
  rw [toNat_encodeRequest]
  rw [decodeRequest_eq] at h
  split_ifs at h <;> cases h <;> simp only [BitVec.toNat_ofNat] <;> omega

theorem decodeRequest_eq_ok_iff {w : RequestWord} {i : Instr} : decodeRequest w = .ok i ↔ encodeRequest i = w :=
  ⟨encodeRequest_of_decodeRequest, fun h => h ▸ decodeRequest_encodeRequest i⟩

theorem decodeRequest_eq_ok_iff_toNat {w : RequestWord} {i : Instr} :
    decodeRequest w = .ok i ↔ (encodeRequest i).toNat = w.toNat := by
  rw [decodeRequest_eq_ok_iff, BitVec.toNat_inj]

/-! ### The reserved sets as ranges of numbers (R36) -/

theorem decodeRequest_selector_iff (w : RequestWord) :
    decodeRequest w = .error .selector ↔ 0x30000 ≤ w.toNat ∧ w.toNat < 0x40000 := by
  have hw := w.isLt
  rw [decodeRequest_eq]
  split_ifs <;> simp <;> omega

theorem decodeRequest_decodeUpper_iff (w : RequestWord) :
    decodeRequest w = .error .decodeUpper ↔ 0x10100 ≤ w.toNat ∧ w.toNat < 0x20000 := by
  have hw := w.isLt
  rw [decodeRequest_eq]
  split_ifs <;> simp <;> omega

theorem decodeRequest_searchTop_iff (w : RequestWord) :
    decodeRequest w = .error .searchTop ↔ 0x28000 ≤ w.toNat ∧ w.toNat < 0x30000 := by
  have hw := w.isLt
  rw [decodeRequest_eq]
  split_ifs <;> simp <;> omega

/-! ### The decoder on the bits of the word (R33 to R36) -/

section Bits

variable {w : RequestWord}

/-- With `op` = 00 every operand is a sample (R33). -/
theorem decodeRequest_encode_of_bits (hop : w.extractLsb' 16 2 = 0b00#2) :
    decodeRequest w = .ok (.encode (.ofNat 16 w.toNat)) := by
  rw [extractLsb'_eq_iff, BitVec.toNat_ofNat] at hop
  rw [decodeRequest_eq_ok_iff_toNat, toNat_encodeRequest]
  simp only [BitVec.toNat_ofNat]
  omega

/-- With `op` = 01 and zeros above it the low byte is a code (R34). -/
theorem decodeRequest_decode_of_bits (hop : w.extractLsb' 16 2 = 0b01#2) (hupper : w.extractLsb' 8 8 = 0#8) :
    decodeRequest w = .ok (.decode (.ofNat 8 w.toNat)) := by
  rw [extractLsb'_eq_iff, BitVec.toNat_ofNat] at hop hupper
  rw [decodeRequest_eq_ok_iff_toNat, toNat_encodeRequest]
  simp only [BitVec.toNat_ofNat]
  omega

/-- With `op` = 10 and bit 15 at 0 the low 15 bits are a magnitude (R35). -/
theorem decodeRequest_search_of_bits (hop : w.extractLsb' 16 2 = 0b10#2) (htop : w.extractLsb' 15 1 = 0#1) :
    decodeRequest w = .ok (.search (.ofNat 15 w.toNat)) := by
  rw [extractLsb'_eq_iff, BitVec.toNat_ofNat] at hop htop
  rw [decodeRequest_eq_ok_iff_toNat, toNat_encodeRequest]
  simp only [BitVec.toNat_ofNat]
  omega

theorem decodeRequest_selector_iff_bits :
    decodeRequest w = .error .selector ↔ w.extractLsb' 16 2 = 0b11#2 := by
  have hw := w.isLt
  rw [decodeRequest_selector_iff, extractLsb'_eq_iff, BitVec.toNat_ofNat]
  omega

theorem decodeRequest_decodeUpper_iff_bits :
    decodeRequest w = .error .decodeUpper ↔ w.extractLsb' 16 2 = 0b01#2 ∧ w.extractLsb' 8 8 ≠ 0#8 := by
  have hw := w.isLt
  rw [decodeRequest_decodeUpper_iff, Ne, extractLsb'_eq_iff, extractLsb'_eq_iff, BitVec.toNat_ofNat, BitVec.toNat_ofNat]
  omega

theorem decodeRequest_searchTop_iff_bits :
    decodeRequest w = .error .searchTop ↔ w.extractLsb' 16 2 = 0b10#2 ∧ w.extractLsb' 15 1 = 1#1 := by
  have hw := w.isLt
  rw [decodeRequest_searchTop_iff, extractLsb'_eq_iff, extractLsb'_eq_iff, BitVec.toNat_ofNat, BitVec.toNat_ofNat]
  omega

end Bits

/-! ### How many words there are of each kind (R36) -/

/-- As many words lie in a range of numbers as numbers do. -/
theorem card_words_between {a b : Nat} (hb : b ≤ 2 ^ 18) :
    Nat.card { w : RequestWord // a ≤ w.toNat ∧ w.toNat < b } = b - a := by
  have hinj : Function.Injective (BitVec.toNat : RequestWord → Nat) := fun _ _ => BitVec.eq_of_toNat_eq
  have hrange : Set.Ico a b ⊆ Set.range (BitVec.toNat : RequestWord → Nat) := fun n hn =>
    ⟨BitVec.ofNat 18 n, Nat.mod_eq_of_lt (hn.2.trans_le hb)⟩
  calc Nat.card (BitVec.toNat ⁻¹' Set.Ico a b : Set RequestWord)
      = Nat.card (Set.Ico a b) := Nat.card_preimage_of_injective hinj hrange
    _ = b - a := by simp

/-- As many words decode to an operation of a family as the family has operands. -/
theorem card_words_of {α : Type} {f : α → Instr} (hf : Function.Injective f) :
    Nat.card { w : RequestWord // ∃ x, decodeRequest w = .ok (f x) } = Nat.card α := by
  simp only [decodeRequest_eq_ok_iff]
  exact Nat.card_range_of_injective (encodeRequest_injective.comp hf)

/-- An operation is its name and its operand. -/
def operandOf : Instr ≃ Sample ⊕ Code ⊕ Magnitude where
  toFun
    | .encode s => .inl s
    | .decode cd => .inr (.inl cd)
    | .search v => .inr (.inr v)
  invFun
    | .inl s => .encode s
    | .inr (.inl cd) => .decode cd
    | .inr (.inr v) => .search v
  left_inv i := by cases i <;> rfl
  right_inv x := by obtain s | cd | v := x <;> rfl

theorem card_bitVec (n : Nat) : Nat.card (BitVec n) = 2 ^ n := by
  rw [Nat.card_congr BitVec.equivFin.toEquiv, Nat.card_fin]

theorem card_instr : Nat.card Instr = 98560 := by
  rw [Nat.card_congr operandOf, Nat.card_sum, Nat.card_sum, card_bitVec, card_bitVec, card_bitVec]
  rfl

/-- Settles O6: each reserved set is a range of numbers, each accepted set the image of its operands. -/
theorem requestWordCounts : Obligations.RequestWordCounts := by
  unfold Obligations.RequestWordCounts
  simp only [decodeRequest_selector_iff, decodeRequest_decodeUpper_iff, decodeRequest_searchTop_iff]
  refine ⟨card_words_between le_rfl, card_words_between (by decide), card_words_between (by decide), ?_, ?_, ?_, ?_⟩
  · exact (card_words_of fun _ _ => Instr.encode.inj).trans (card_bitVec 16)
  · exact (card_words_of fun _ _ => Instr.decode.inj).trans (card_bitVec 8)
  · exact (card_words_of fun _ _ => Instr.search.inj).trans (card_bitVec 15)
  · exact (card_words_of Function.injective_id).trans card_instr

end Sys2Proof

namespace Sys2Proof.Machine

/-! ### The operands -/

/-- The clip bounds the biased magnitude (R63 to R65). -/
theorem encBiased_bounds (x : Sample) : 33 ≤ encBiased x ∧ encBiased x ≤ 8192 := by
  have hclip : encClipped x ≤ 8159 := min_le_right _ _
  rw [encBiased, biasShifted_eq]
  omega

/-- The 16 low bits of a number as a two's complement integer, `sext_16` (R33). -/
theorem toInt_ofNat_sixteen (n : Nat) :
    (BitVec.ofNat 16 n).toInt =
      if n % 65536 < 32768 then ((n % 65536 : Nat) : Int) else (n % 65536 : Nat) - 65536 := by
  rw [BitVec.toInt_eq_toNat_cond, BitVec.toNat_ofNat]
  split_ifs <;> omega

/-- Settles O2: the range of the biased magnitude is that of the clip, and each clause is the decoder on the bits. -/
theorem operandsReadFromFields : Obligations.OperandsReadFromFields :=
  ⟨encBiased_bounds, fun _ =>
    ⟨fun hop => ⟨_, decodeRequest_encode_of_bits hop, toInt_ofNat_sixteen _⟩,
      fun hop hupper => ⟨_, decodeRequest_decode_of_bits hop hupper, BitVec.toNat_ofNat ..⟩,
      fun hop hupper => decodeRequest_decodeUpper_iff_bits.2 ⟨hop, hupper⟩,
      fun hop htop => ⟨_, decodeRequest_search_of_bits hop htop, BitVec.toNat_ofNat ..⟩,
      fun hop htop => decodeRequest_searchTop_iff_bits.2 ⟨hop, htop⟩⟩⟩

/-! ### What a step does with a word -/

/-- The step on the request word of an operation answers it (R26). -/
theorem step_present_encodeRequest (i : Instr) (s : State) :
    step (present (encodeRequest i) s) =
      .next { pending := s.pending, history := s.history ++ [⟨encodeRequest i, response i⟩] } := by
  rw [step_present, decodeRequest_encodeRequest]
  exact exec_eq_deliver i s

/-- A request is refused exactly when its word is reserved, under the name of its reserved set (R36, R126). -/
theorem step_present_eq_refused_iff {w : RequestWord} {s : State} {e : Refusal} :
    step (present w s) = .refused e ↔ ∃ r, decodeRequest w = .error r ∧ refusalOf r = e := by
  rw [step_present]
  cases decodeRequest w with
  | ok i => simp [exec_eq_deliver, deliver]
  | error r => simp [refuse]

/-- Settles O5: a step refuses what the decoder calls reserved, and the decoder names the three sets by their bits. -/
theorem reservedWordsRefused : Obligations.ReservedWordsRefused := by
  intro w s
  have refused {r : Reserved} (h : decodeRequest w = .error r) : step (present w s) = .refused (refusalOf r) :=
    step_present_eq_refused_iff.2 ⟨r, h, rfl⟩
  refine ⟨fun h => refused (decodeRequest_selector_iff_bits.2 h),
    fun h => refused (decodeRequest_decodeUpper_iff_bits.2 h),
    fun h => refused (decodeRequest_searchTop_iff_bits.2 h), ?_⟩
  rintro ⟨e, he⟩
  obtain ⟨r, hr, -⟩ := step_present_eq_refused_iff.1 he
  cases r with
  | selector => exact .inl (decodeRequest_selector_iff_bits.1 hr)
  | decodeUpper => exact .inr (.inl (decodeRequest_decodeUpper_iff_bits.1 hr))
  | searchTop => exact .inr (.inr (decodeRequest_searchTop_iff_bits.1 hr))

/-- The code the host carries across is the code that was answered (R31, R40). -/
@[simp] theorem codeOfResponse_codeResponse (cd : Code) : codeOfResponse (codeResponse cd) = cd := by
  have hcd := cd.isLt
  rw [codeOfResponse, codeResponse, extractLsb'_eq_iff, BitVec.toNat_setWidth]
  omega

/-- Settles O51: two steps, the second on the code that the first response carries. -/
theorem roundTripIsTwoRequests : Obligations.RoundTripIsTwoRequests := by
  intro x s
  refine ⟨encodeResponse x, _, step_present_encodeRequest _ s, rfl, ?_⟩
  rw [step_present_encodeRequest, encodeResponse, codeOfResponse_codeResponse]
  rfl

/-- Settles O52: the response of each operation is its unit's output port, zero-extended (R31, R44). -/
theorem portViewAgrees : Obligations.PortViewAgrees := fun _ =>
  ⟨answers_iff.2 rfl, answers_iff.2 rfl, answers_iff.2 rfl⟩

end Sys2Proof.Machine
end

section
/-! Proofs about the text of an operation read back (30_encoding.md R39): prefixes, digits, numbers, operands, lines. -/

namespace Sys2Proof.Machine

/-! ### Prefixes -/

@[simp] theorem afterPrefix_append (p cs : List Char) : afterPrefix p (p ++ cs) = some cs := by
  induction p with
  | nil => rfl
  | cons c p ih => simp [afterPrefix, ih]

/-- What a text begins with stands in it. -/
theorem mem_of_afterPrefix {p cs ds : List Char} (h : afterPrefix p cs = some ds) {c : Char} (hc : c ∈ p) : c ∈ cs := by
  induction p generalizing cs with
  | nil => simp at hc
  | cons a p ih =>
    cases cs with
    | nil => simp [afterPrefix] at h
    | cons b cs =>
      obtain ⟨rfl, htail⟩ : a = b ∧ afterPrefix p cs = some ds := by simpa [afterPrefix] using h
      obtain rfl | hc := List.mem_cons.1 hc
      · exact List.mem_cons_self
      · exact List.mem_cons_of_mem _ (ih htail hc)

theorem afterPrefix_eq_none {p cs : List Char} {c : Char} (hp : c ∈ p) (hcs : c ∉ cs) : afterPrefix p cs = none := by
  cases h : afterPrefix p cs with
  | none => rfl
  | some ds => exact absurd (mem_of_afterPrefix h hp) hcs

/-! ### Digits and numbers -/

theorem decimalValue_digitChar {d : Nat} (hd : d < 10) : decimalValue (digitChar d) = some d := by
  have : ∀ d < 10, decimalValue (digitChar d) = some d := by decide
  exact this d hd

theorem hexValue_digitChar {d : Nat} (hd : d < 16) : hexValue (digitChar d) = some d := by
  have : ∀ d < 16, hexValue (digitChar d) = some d := by decide
  exact this d hd

/-- One more digit at the end of a number that was read. -/
theorem readDigits_snoc {base acc n d : Nat} {value : Char → Option Nat} {cs : List Char} {c : Char}
    (hcs : readDigits base value acc cs = some n) (hc : value c = some d) :
    readDigits base value acc (cs ++ [c]) = some (n * base + d) := by
  induction cs generalizing acc with
  | nil => simp_all [readDigits]
  | cons a cs ih =>
    cases ha : value a with
    | none => simp [readDigits, ha] at hcs
    | some k => simpa [readDigits, ha] using ih (by simpa [readDigits, ha] using hcs)

/-- A text that was read as digits holds digits only. -/
theorem not_mem_of_readDigits {base acc n : Nat} {value : Char → Option Nat} {cs : List Char} {c : Char}
    (hcs : readDigits base value acc cs = some n) (hc : value c = none) : c ∉ cs := by
  induction cs generalizing acc with
  | nil => simp
  | cons a cs ih =>
    cases ha : value a with
    | none => simp [readDigits, ha] at hcs
    | some k =>
      have hne : c ≠ a := by rintro rfl; simp [ha] at hc
      simpa [hne] using ih (by simpa [readDigits, ha] using hcs)

theorem decimalDigits_ne_nil (fuel n : Nat) : decimalDigits (fuel + 1) n ≠ [] := by
  rw [decimalDigits]
  split <;> simp

theorem readDigits_decimalDigits {fuel n : Nat} (hn : n < 10 ^ (fuel + 1)) :
    readDigits 10 decimalValue 0 (decimalDigits (fuel + 1) n) = some n := by
  induction fuel generalizing n with
  | zero => 
    have hn : n < 10 := by simpa using hn
    simp [decimalDigits, readDigits, hn, decimalValue_digitChar]
  | succ fuel ih =>
    rw [decimalDigits]
    split
    next hlt => simp [readDigits, decimalValue_digitChar hlt]
    next =>
      have hdiv : n / 10 < 10 ^ (fuel + 1) := Nat.div_lt_of_lt_mul (by rwa [pow_succ'] at hn)
      rw [readDigits_snoc (ih hdiv) (decimalValue_digitChar (Nat.mod_lt n (by decide))), Nat.div_add_mod' n 10]

section NatText

variable {n bound : Nat}

/-- A number written in decimal reads back as itself, also under a bound it keeps. -/
theorem atMost_natText (hn : n ≤ bound) (hb : bound < 100000) :
    atMost bound (readNumber 10 decimalValue (natText n)) = some n := by
  have hne : natText n ≠ [] := decimalDigits_ne_nil 4 n
  have hdigits : readDigits 10 decimalValue 0 (natText n) = some n := readDigits_decimalDigits (hn.trans_lt hb)
  rw [readNumber, if_neg hne, hdigits, atMost, if_pos hn]

theorem not_mem_natText (hn : n < 100000) {c : Char} (hc : decimalValue c = none) : c ∉ natText n :=
  not_mem_of_readDigits (readDigits_decimalDigits hn) hc

/-- A number in decimal is not taken for hex. -/
theorem hexDigits_natText (hn : n < 100000) : hexDigits (natText n) = none :=
  afterPrefix_eq_none (c := 'x') (by decide) (not_mem_natText hn (by decide))

theorem afterPrefix_minus_natText (hn : n < 100000) : afterPrefix ['-'] (natText n) = none :=
  afterPrefix_eq_none (c := '-') (by decide) (not_mem_natText hn (by decide))

end NatText

/-! ### Operands -/

theorem readSampleText_minus {n : Nat} (hn : n ≤ 32768) :
    readSampleText ('-' :: natText n) = some (BitVec.ofInt 16 (-(n : Int))) := by
  have hhex : hexDigits ('-' :: natText n) = none := rfl
  have hminus : afterPrefix ['-'] ('-' :: natText n) = some (natText n) := rfl
  simp only [readSampleText, hhex, hminus, atMost_natText hn (by decide)]
  rfl

theorem readSampleText_natText {n : Nat} (hn : n ≤ 32767) : readSampleText (natText n) = some (BitVec.ofNat 16 n) := by
  have hlt : n < 100000 := by omega
  rw [readSampleText, hexDigits_natText hlt, afterPrefix_minus_natText hlt, atMost_natText hn (by decide)]
  rfl

/-- The two branches of the signed form meet the two branches of the reader (R7, R39). -/
theorem readSampleText_intText (s : Sample) : readSampleText (intText s.toInt) = some s := by
  have hlo : -32768 ≤ s.toInt := s.le_toInt
  have hhi : s.toInt < 32768 := s.toInt_lt
  rw [intText]
  split
  next =>
    have hval : -((-s.toInt).toNat : Int) = s.toInt := by omega
    rw [readSampleText_minus (by omega), hval, BitVec.ofInt_toInt]
  next =>
    have hval : (s.toInt.toNat : Int) = s.toInt := by omega
    rw [readSampleText_natText (by omega), ← BitVec.ofInt_natCast, hval, BitVec.ofInt_toInt]

theorem readCodeText_codeText (cd : Code) : readCodeText (codeText cd) = some cd := by
  have hcd := cd.isLt
  have hhex : hexDigits (codeText cd) = some [digitChar (cd.toNat / 16), digitChar (cd.toNat % 16)] := rfl
  have hhi : hexValue (digitChar (cd.toNat / 16)) = some (cd.toNat / 16) := hexValue_digitChar (by omega)
  have hlo : hexValue (digitChar (cd.toNat % 16)) = some (cd.toNat % 16) := hexValue_digitChar (by omega)
  simp [readCodeText, hhex, readNumber, readDigits, hhi, hlo, Nat.div_add_mod']

theorem readMagnitudeText_natText (v : Magnitude) : readMagnitudeText (natText v.toNat) = some v := by
  have hv : v.toNat < 32768 := v.isLt
  rw [readMagnitudeText, hexDigits_natText (by omega), atMost_natText (by omega) (by decide)]
  simp

/-! ### Lines -/

theorem readLine_encodeName (o : List Char) :
    readLine (encodeName ++ [' '] ++ o) = (readSampleText o).map .encode := by
  rw [readLine, afterPrefix_append]

theorem readLine_decodeName (o : List Char) :
    readLine (decodeName ++ [' '] ++ o) = (readCodeText o).map .decode := by
  have henc : afterPrefix (encodeName ++ [' ']) (decodeName ++ [' '] ++ o) = none := rfl
  rw [readLine, henc, afterPrefix_append]

theorem readLine_searchName (o : List Char) :
    readLine (searchName ++ [' '] ++ o) = (readMagnitudeText o).map .search := by
  have henc : afterPrefix (encodeName ++ [' ']) (searchName ++ [' '] ++ o) = none := rfl
  have hdec : afterPrefix (decodeName ++ [' ']) (searchName ++ [' '] ++ o) = none := rfl
  rw [readLine, henc, hdec, afterPrefix_append]

/-- Settles O53: the mnemonic selects the reader, and each operand's reader undoes its writer. -/
theorem operationTextReadsBack : Obligations.OperationTextReadsBack := by
  intro i
  cases i with
  | encode s => rw [operationText, readLine_encodeName, readSampleText_intText]; rfl
  | decode cd => rw [operationText, readLine_decodeName, readCodeText_codeText]; rfl
  | search v => rw [operationText, readLine_searchName, readMagnitudeText_natText]; rfl

/-- Settles O54: the lines are fixed, so the reader and the writer are run on them. -/
theorem textExamples : Obligations.TextExamples := by
  unfold Obligations.TextExamples
  decide

end Sys2Proof.Machine
end

section
/-! Proofs about the segment search (40_segment_search.md): the scan of the table as the library's `List.findIdx`, the
index characterised by what R50 says of it, and the response in terms of the index. -/

namespace Sys2Proof.Machine

/-! ### The scan -/

/-- The scan counts on from `k` to the first entry at or above `v`, the end of the list if there is none. -/
theorem firstAtLeast_eq_findIdx (ts : List Nat) (k v : Nat) :
    firstAtLeast ts k v = k + ts.findIdx (v ≤ ·) := by
  induction ts generalizing k with
  | nil => rfl
  | cons t ts ih =>
    rw [firstAtLeast, List.findIdx_cons]
    split
    next h => simp [h]
    next h => simp [h, ih]; omega

theorem segSearch_eq_findIdx (v : Nat) : segSearch v = segUend.findIdx (v ≤ ·) := by
  rw [segSearch, firstAtLeast_eq_findIdx, Nat.zero_add]

/-- The index is at most the number of entries (R54). -/
theorem segSearch_le_eight (v : Nat) : segSearch v ≤ 8 :=
  segSearch_eq_findIdx v ▸ List.findIdx_le_length

/-- Every entry before the index is below the operand (R50). -/
theorem getD_lt_of_lt_segSearch {v j : Nat} (h : j < segSearch v) : segUend.getD j 0 < v := by
  have hj : j < segUend.length := h.trans_le (segSearch_le_eight v)
  rw [segSearch_eq_findIdx] at h
  simpa [hj] using List.not_of_lt_findIdx h

/-- The entry at the index, where there is one, is at or above the operand (R50). -/
theorem le_getD_segSearch {v : Nat} (h : segSearch v < 8) : v ≤ segUend.getD (segSearch v) 0 := by
  rw [segSearch_eq_findIdx] at h ⊢
  rw [List.getD_eq_getElem _ _ h]
  simpa using List.findIdx_getElem (w := h)

/-- There is only one first index: before it no entry qualifies, and it qualifies itself unless it is 8 (R50, R52). -/
theorem segSearch_eq_of_first {v k : Nat} (hk : k ≤ 8) (hbelow : ∀ j < k, segUend.getD j 0 < v)
    (hat : k < 8 → v ≤ segUend.getD k 0) : segSearch v = k := by
  rcases Nat.lt_trichotomy (segSearch v) k with hlt | heq | hgt
  · exact absurd (hbelow _ hlt) (le_getD_segSearch (hlt.trans_le hk)).not_gt
  · exact heq
  · exact absurd (getD_lt_of_lt_segSearch hgt) (hat (hgt.trans_le (segSearch_le_eight v))).not_gt

/-- The last entry is the greatest (R14). -/
theorem getD_segUend_le : ∀ k < 8, segUend.getD k 0 ≤ 8191 := by decide

/-- The sentinel is given exactly above the last entry (R55). -/
theorem segSearch_eq_eight_iff {v : Nat} : segSearch v = 8 ↔ 8191 < v := by
  constructor
  · intro h
    exact getD_lt_of_lt_segSearch (j := 7) (h ▸ by decide)
  · intro h
    by_contra hne
    have hlt : segSearch v < 8 := lt_of_le_of_ne (segSearch_le_eight v) hne
    exact ((le_getD_segSearch hlt).trans (getD_segUend_le _ hlt)).not_gt h

/-- A threshold has its own index (R51). -/
theorem segSearch_threshold : ∀ k < 8, segSearch (segUend.getD k 0) = k := by decide

/-- One above a threshold has the next index (R50). -/
theorem segSearch_threshold_succ : ∀ k < 8, segSearch (segUend.getD k 0 + 1) = k + 1 := by decide

/-! ### The response and the request word -/

/-- The four bits of the index and the response word hold it whole (R31, R43). -/
theorem response_search (v : Magnitude) : response (.search v) = BitVec.ofNat 16 (segSearch v.toNat) := by
  have hk := segSearch_le_eight v.toNat
  apply BitVec.eq_of_toNat_eq
  simp only [response, searchResponse, indexResponse, searchUnit, magnitudeOperand, BitVec.toNat_setWidth,
    BitVec.toNat_ofNat]
  omega

theorem answers_search {v : Magnitude} {k : Nat} (h : segSearch v.toNat = k) :
    Answers (.search v) (BitVec.ofNat 16 k) :=
  answers_iff.2 (h ▸ (response_search v).symm)

theorem answers_search_ofNat {n k : Nat} (hn : n < 32768) (h : segSearch n = k) :
    Answers (.search (BitVec.ofNat 15 n)) (BitVec.ofNat 16 k) :=
  answers_search (by rwa [BitVec.toNat_ofNat, Nat.mod_eq_of_lt hn])

/-- R51 at the boundary: each threshold answers its own index. -/
theorem answers_search_threshold {k : Nat} (hk : k < 8) :
    Answers (.search (BitVec.ofNat 15 (segUend.getD k 0))) (BitVec.ofNat 16 k) :=
  answers_search_ofNat ((getD_segUend_le k hk).trans_lt (by decide)) (segSearch_threshold k hk)

/-- One above each threshold answers the next index (R50). -/
theorem answers_search_threshold_succ {k : Nat} (hk : k < 8) :
    Answers (.search (BitVec.ofNat 15 (segUend.getD k 0 + 1))) (BitVec.ofNat 16 (k + 1)) :=
  answers_search_ofNat ((Nat.succ_le_succ (getD_segUend_le k hk)).trans_lt (by decide))
    (segSearch_threshold_succ k hk)

/-- The sentinel at the boundary (R55). -/
theorem answers_search_sentinel {v : Magnitude} (h : 8191 < v.toNat) : Answers (.search v) 8#16 :=
  answers_search (segSearch_eq_eight_iff.2 h)

/-- The fields of a `SEARCH` request word: `op` = 10, bit 15 = 0, the operand below (R30, R32, R35). -/
theorem encodeRequest_search_fields (v : Magnitude) :
    (encodeRequest (.search v)).extractLsb' 16 2 = 0b10#2 ∧
    (encodeRequest (.search v)).extractLsb' 15 1 = 0#1 ∧ (encodeRequest (.search v)).extractLsb' 0 15 = v := by
  have hv := v.isLt
  simp only [extractLsb'_eq_iff, toNat_encodeRequest, BitVec.toNat_ofNat]
  omega

/-! ### The statements -/

/-- Settles O20: the index is the only first one, and each corner case is the index of its operand. -/
theorem searchScansUpward : Obligations.SearchScansUpward :=
  ⟨fun _ _ hk hbelow hat => answers_search (segSearch_eq_of_first hk hbelow hat),
    fun v => ⟨segSearch v.toNat, segSearch_le_eight _, fun _ => getD_lt_of_lt_segSearch, le_getD_segSearch⟩,
    encodeRequest_search_fields,
    answers_search_ofNat (by decide) rfl,
    fun _ hk => ⟨answers_search_threshold hk, answers_search_threshold_succ hk⟩,
    fun _ => answers_search_sentinel,
    fun x => ⟨rfl, encBiased_bounds x⟩,
    rfl,
    answers_search_ofNat (by decide) rfl⟩

/-- Settles O21: a threshold's first qualifying entry is the threshold itself. -/
theorem searchTiesGoToLowerIndex : Obligations.SearchTiesGoToLowerIndex :=
  ⟨fun _ => answers_search_threshold, answers_search_ofNat (by decide) rfl, answers_search_ofNat (by decide) rfl,
    answers_search_ofNat (by decide) rfl⟩

/-- Settles O22: the index is at most the length of the table, and it is what is answered. -/
theorem searchTotalAndInRange : Obligations.SearchTotalAndInRange :=
  ⟨segSearch_le_eight, fun v => ⟨segSearch v.toNat, segSearch_le_eight _, answers_search rfl⟩⟩

/-- Inside `ENCODE` the sentinel is the greatest biased magnitude, since the clip allows no other above 8191 (R55, R72). -/
theorem encSegment_eq_eight_iff (x : Sample) : encSegment x = 8 ↔ encBiased x = 8192 := by
  have hb := encBiased_bounds x
  rw [encSegment, segSearch_eq_eight_iff]
  omega

/-- The encoder's step for the sentinel (R66). -/
theorem encPreMask_of_encSegment_eq_eight {x : Sample} (h : encSegment x = 8) : encPreMask x = 0x7F :=
  if_pos h.ge

/-- Settles O23: above the last entry the scan runs to the end; the sample 32636 takes the encoder there. -/
theorem searchSentinel : Obligations.SearchSentinel :=
  ⟨fun _ => segSearch_eq_eight_iff.2, fun _ => answers_search_sentinel, encSegment_eq_eight_iff,
    ⟨BitVec.ofInt 16 32636, by decide⟩, fun _ => encPreMask_of_encSegment_eq_eight⟩

end Sys2Proof.Machine
end

section
/-! Proofs about `ENCODE` (41_ulaw_encode.md): each wire in arithmetic, its range, and the response as the number the
steps compute. -/

namespace Sys2Proof.Machine

/-! ### The wires -/

/-- The shifted sample is the quotient by 4, rounded toward minus infinity (R61). -/
theorem encShifted_eq_div (x : Sample) : encShifted x = x.toInt / 4 := by
  have hx := x.isLt
  rw [encShifted, BitVec.toInt_eq_toNat_cond, BitVec.toInt_eq_toNat_cond, BitVec.extractLsb'_toNat,
    Nat.shiftRight_eq_div_pow]
  split_ifs <;> omega

/-- The shift as the rule writes it, on the integer the sample denotes (R61). -/
theorem toInt_shiftRight_two (x : Sample) : x.toInt >>> (2 : Int) = encShifted x := by
  calc x.toInt >>> (2 : Int)
      = x.toInt >>> (2 : Nat) := Int.shiftRight_natCast_right x.toInt 2
    _ = x.toInt / 4 := Int.shiftRight_eq_div_pow x.toInt 2
    _ = encShifted x := (encShifted_eq_div x).symm

theorem encShifted_bounds (x : Sample) : -8192 ≤ encShifted x ∧ encShifted x ≤ 8191 := by
  have hlo : -32768 ≤ x.toInt := x.le_toInt
  have hhi : x.toInt < 32768 := x.toInt_lt
  rw [encShifted_eq_div]
  omega

theorem encNegative_eq_true_iff (x : Sample) : encNegative x = true ↔ encShifted x < 0 := decide_eq_true_iff

theorem encMask_eq (x : Sample) : encMask x = if encShifted x < 0 then 0x7F else 0xFF := by
  simp only [encMask, encNegative_eq_true_iff, negativeMask, nonNegativeMask]

theorem encMagnitude_eq (x : Sample) :
    encMagnitude x = if encShifted x < 0 then (-encShifted x).toNat else (encShifted x).toNat := by
  simp only [encMagnitude, encNegative_eq_true_iff]

/-- The magnitude is the absolute value of the shifted sample (R62). -/
theorem encMagnitude_eq_natAbs (x : Sample) : encMagnitude x = (encShifted x).natAbs := by
  rw [encMagnitude_eq]
  split_ifs <;> omega

theorem encSegment_le_eight (x : Sample) : encSegment x ≤ 8 := segSearch_le_eight _

theorem encMantissa_lt (x : Sample) : encMantissa x < 16 := by
  rw [encMantissa_eq]
  exact Nat.mod_lt _ (by decide)

/-- Below the sentinel the byte before the mask is segment and mantissa side by side (R67). -/
theorem encPreMask_of_encSegment_lt {x : Sample} (h : encSegment x < 8) :
    encPreMask x = 16 * encSegment x + encMantissa x := by
  have hk : ¬ segSize ≤ encSegment x := h.not_ge
  rw [encPreMask, if_neg hk, segment_or_mantissa (encMantissa_lt x)]

/-- Bit 7 of the byte before the mask is 0, at the sentinel too (R66, R67). -/
theorem encPreMask_lt (x : Sample) : encPreMask x < 128 := by
  rcases (encSegment_le_eight x).lt_or_eq with hlt | heq
  · have hq := encMantissa_lt x
    rw [encPreMask_of_encSegment_lt hlt]
    omega
  · rw [encPreMask_of_encSegment_eq_eight heq]
    decide

/-- The XOR as a subtraction: 255 for a non-negative shifted sample, 127 for a negative one (R68). -/
theorem ulawEncode_eq_sub (x : Sample) : ulawEncode x = encMask x - encPreMask x := by
  rw [ulawEncode, encMask]
  split
  · exact xor_negativeMask (encPreMask_lt x)
  · exact xor_nonNegativeMask (encPreMask_lt x)

/-- The result fits the 8 bits of a code (R60). -/
theorem ulawEncode_le (x : Sample) : ulawEncode x ≤ 255 := by
  rw [ulawEncode_eq_sub, encMask_eq]
  split_ifs <;> omega

/-! ### The response and the request word -/

theorem toNat_encoderUnit (x : Sample) : (encoderUnit x).toNat = ulawEncode x := by
  rw [encoderUnit, BitVec.toNat_ofNat]
  exact Nat.mod_eq_of_lt (Nat.lt_succ_of_le (ulawEncode_le x))

/-- The response word holds the code whole, zero-extended (R31). -/
theorem response_encode (x : Sample) : response (.encode x) = BitVec.ofNat 16 (ulawEncode x) := by
  rw [← toNat_encoderUnit, BitVec.ofNat_toNat]
  rfl

theorem answers_encode (x : Sample) : Answers (.encode x) (BitVec.ofNat 16 (ulawEncode x)) :=
  answers_iff.2 (response_encode x).symm

/-- The fields of an `ENCODE` request word: `op` = 00, the sample below (R30, R32, R33). -/
theorem encodeRequest_encode_fields (x : Sample) :
    (encodeRequest (.encode x)).extractLsb' 16 2 = 0b00#2 ∧ (encodeRequest (.encode x)).extractLsb' 0 16 = x :=
  ⟨opField_requestWord 0b00#2 x, operandField_requestWord 0b00#2 x⟩

/-! ### The statement -/

/-- Every wire of `ENCODE` lies in its range, and the code they end in is answered (R60 to R68). -/
theorem encode_wires_in_range (x : Sample) :
    encShifted x ≤ 8191 ∧ -8192 ≤ encShifted x ∧
    (encShifted x < 0 → 1 ≤ encMagnitude x ∧ encMagnitude x ≤ 8192) ∧
    (0 ≤ encShifted x → encMagnitude x ≤ 8191) ∧ encClipped x ≤ 8159 ∧ 33 ≤ encBiased x ∧ encBiased x ≤ 8192 ∧
    encSegment x ≤ 8 ∧ ulawEncode x ≤ 0xFF ∧ Answers (.encode x) (BitVec.ofNat 16 (ulawEncode x)) := by
  obtain ⟨hplo, hphi⟩ := encShifted_bounds x
  obtain ⟨hblo, hbhi⟩ := encBiased_bounds x
  have hm := encMagnitude_eq_natAbs x
  exact ⟨hphi, hplo, by omega, by omega, min_le_right _ _, hblo, hbhi, encSegment_le_eight x, ulawEncode_le x,
    answers_encode x⟩

/-- Settles O27: the listed steps are the wires of the model, one by one, each in its range; the samples 0 and 1 share a
code; the worked example is run. -/
theorem encodeFollowsSteps : Obligations.EncodeFollowsSteps := by
  refine ⟨fun x => ?_, encodeRequest_encode_fields, ⟨0#16, 1#16, by decide⟩, ?_, answers_iff.2 (by decide)⟩
  · simp only [toInt_shiftRight_two, ← encMagnitude_eq, ← encMask_eq]
    exact encode_wires_in_range x
  · simp only [answers_iff]
    decide

end Sys2Proof.Machine
end

section
/-! Proofs about `DECODE` (42_ulaw_decode.md): each wire in arithmetic, its range, and the response as the number the
steps compute. -/

namespace Sys2Proof.Machine

/-! ### The wires -/

/-- The complement is a byte (R81). -/
theorem decComplement_lt (cd : Code) : decComplement cd < 256 := (~~~cd).isLt

/-- The mantissa is a field of four bits (R82). -/
theorem decMantissa_le (cd : Code) : decMantissa cd ≤ 15 := Nat.and_le_right

theorem decBase_bounds (cd : Code) : 132 ≤ decBase cd ∧ decBase cd ≤ 252 := by
  have hq := decMantissa_le cd
  rw [decBase_eq]
  omega

/-- The mask and the shift take the three bits above the mantissa (R83). -/
theorem decSegment_eq (cd : Code) : decSegment cd = decComplement cd / 16 % 8 := by
  have hmask : segmentMask >>> 4 = 2 ^ 3 - 1 := by decide
  rw [decSegment, Nat.shiftRight_and_distrib, hmask, Nat.and_two_pow_sub_one_eq_mod, Nat.shiftRight_eq_div_pow]

theorem decSegment_le (cd : Code) : decSegment cd ≤ 7 := by
  rw [decSegment_eq]
  omega

theorem decScaled_eq (cd : Code) : decScaled cd = decBase cd * 2 ^ decSegment cd := Nat.shiftLeft_eq _ _

/-- Scaling by 1 to 128 takes the base no lower than 132 and no higher than 252 times 128 (R84). -/
theorem decScaled_bounds (cd : Code) : 132 ≤ decScaled cd ∧ decScaled cd ≤ 32256 := by
  obtain ⟨hlo, hhi⟩ := decBase_bounds cd
  have hscale : 2 ^ decSegment cd ≤ 2 ^ 7 := Nat.pow_le_pow_right (by decide) (decSegment_le cd)
  rw [decScaled_eq]
  constructor
  · exact hlo.trans (Nat.le_mul_of_pos_right _ (Nat.two_pow_pos _))
  · exact Nat.mul_le_mul hhi hscale

/-- The sign wire is bit 7 of the complement, in place (R85). -/
theorem decSign_eq (cd : Code) : decSign cd = decComplement cd / 128 * 128 := by
  have hu := decComplement_lt cd
  calc decSign cd
      = ((decComplement cd).testBit 7).toNat * 2 ^ 7 := Nat.and_two_pow _ 7
    _ = decComplement cd / 2 ^ 7 % 2 * 2 ^ 7 := by rw [Nat.toNat_testBit]
    _ = decComplement cd / 128 * 128 := by omega

/-- A code is negative exactly when its own bit 7, before the complement, is 0 (R81, R85). -/
theorem decSign_ne_zero_iff (cd : Code) : decSign cd ≠ 0 ↔ cd.extractLsb' 7 1 = 0#1 := by
  have hcd := cd.isLt
  rw [decSign_eq, decComplement_eq, extractLsb'_eq_iff, BitVec.toNat_ofNat]
  omega

/-- The bias added in step 2 comes off again, so the greatest magnitude is 32256 - 132 (R85). -/
theorem ulawDecode_bounds (cd : Code) : -32124 ≤ ulawDecode cd ∧ ulawDecode cd ≤ 32124 := by
  obtain ⟨hlo, hhi⟩ := decScaled_bounds cd
  have hbias : bias = 132 := rfl
  rw [ulawDecode]
  split_ifs <;> omega

/-! ### The response and the request word -/

/-- The response word is the two's complement pattern of the exact result (R31). -/
theorem answers_decode (cd : Code) : Answers (.decode cd) (BitVec.ofInt 16 (ulawDecode cd)) :=
  answers_iff.2 rfl

/-- The fields of a `DECODE` request word: `op` = 01, zeros above the code, the code below (R30, R32, R34). -/
theorem encodeRequest_decode_fields (cd : Code) :
    (encodeRequest (.decode cd)).extractLsb' 16 2 = 0b01#2 ∧
    (encodeRequest (.decode cd)).extractLsb' 8 8 = 0#8 ∧ (encodeRequest (.decode cd)).extractLsb' 0 8 = cd := by
  have hcd := cd.isLt
  simp only [extractLsb'_eq_iff, toNat_encodeRequest, BitVec.toNat_ofNat]
  omega

/-! ### The statement -/

/-- Every wire of `DECODE` lies in its range, and the sample they end in is answered (R80 to R86). -/
theorem decode_wires_in_range (cd : Code) :
    decMantissa cd ≤ 15 ∧ 132 ≤ decBase cd ∧ decBase cd ≤ 252 ∧ decSegment cd ≤ 7 ∧
    132 ≤ decScaled cd ∧ decScaled cd ≤ 32256 ∧ (decSign cd ≠ 0 ↔ cd.extractLsb' 7 1 = 0#1) ∧
    (-32124 ≤ ulawDecode cd ∧ ulawDecode cd ≤ 32124) ∧
    Answers (.decode cd) (BitVec.ofInt 16 (ulawDecode cd)) := by
  obtain ⟨hblo, hbhi⟩ := decBase_bounds cd
  obtain ⟨htlo, hthi⟩ := decScaled_bounds cd
  exact ⟨decMantissa_le cd, hblo, hbhi, decSegment_le cd, htlo, hthi, decSign_ne_zero_iff cd, ulawDecode_bounds cd,
    answers_decode cd⟩

/-- Settles O38: the listed steps are the wires of the model, one by one, each in its range; the corner cases and the
worked example are run. -/
theorem decodeFollowsSteps : Obligations.DecodeFollowsSteps := by
  refine ⟨fun cd => ?_, encodeRequest_decode_fields, ?_⟩
  · simp only [← decComplement_eq]
    exact decode_wires_in_range cd
  · simp only [answers_iff]
    decide

end Sys2Proof.Machine
end

section
/-! Proofs about the known values (43_properties.md R105): what one pair of exact results says about the two requests and
the round trip. -/

namespace Sys2Proof.Machine

/-- Narrowing the exact result to 16 bits loses nothing, because it lies in the range of R86. -/
theorem toInt_decoderUnit (cd : Code) : (decoderUnit cd).toInt = ulawDecode cd := by
  obtain ⟨hlo, hhi⟩ := ulawDecode_bounds cd
  exact BitVec.toInt_ofInt_eq_self (by decide) (by omega) (by omega)

/-- When the steps of `ENCODE` take `x` to the number `c`, and those of `DECODE` take the code `c` to `n`, the two
requests are answered with `c` and `n`, and `n` is the round trip of `x` (R31, R40). -/
theorem answers_and_roundTrip {x : Sample} {c : Nat} {n : Int} (henc : ulawEncode x = c)
    (hdec : ulawDecode (BitVec.ofNat 8 c) = n) :
    Answers (.encode x) (BitVec.ofNat 16 c) ∧ Answers (.decode (BitVec.ofNat 8 c)) (BitVec.ofInt 16 n) ∧
    (roundTrip x).toInt = n := by
  have hcode : encoderUnit x = BitVec.ofNat 8 c := congrArg (BitVec.ofNat 8) henc
  refine ⟨henc ▸ answers_encode x, hdec ▸ answers_decode _, ?_⟩
  rw [roundTrip, hcode, toInt_decoderUnit, hdec]

/-- Settles O43: in each row of the table only the two exact results are computed; the responses and the round trip
follow from them. -/
theorem knownValues : Obligations.KnownValues := by
  have hdecodeOne : ulawDecode 1#8 = -31100 := by decide
  exact ⟨hdecodeOne ▸ answers_decode 1#8,
    answers_and_roundTrip (by decide) (by decide),
    answers_and_roundTrip (by decide) (by decide),
    answers_and_roundTrip (by decide) (by decide),
    answers_and_roundTrip (by decide) (by decide),
    answers_and_roundTrip (by decide) (by decide)⟩

end Sys2Proof.Machine
end

section
/-! Proofs about exceptions (60_exceptions.md R120): every operation completes, and there is no fault to raise. -/

namespace Sys2Proof.Machine

/-- Every operation completes in every state, since all it does is to deliver its response. -/
theorem exec_completes (i : Instr) (s : State) : ∃ t, exec i s = .next t :=
  ⟨_, answers_iff.2 rfl s⟩

/-- No fault exists: the type has no constructor (R120: "no exception causes"). -/
theorem no_fault (f : Fault) : False := by
  cases f

/-- Settles O10: each operation delivers its response, and a step that faulted would name a fault. -/
theorem noOperationFaults : Obligations.NoOperationFaults :=
  ⟨exec_completes, fun _ f _ => no_fault f, no_fault⟩

end Sys2Proof.Machine
end

section
/-! Proofs about the opcode table (30_encoding.md, "Opcode map in prose (E3)"): each row and each operation as one range
of numbers, and the two round trips between words and operations. -/

namespace Sys2Proof

/-- Settles O3: each operand's reader undoes its placement in the word. -/
theorem decodeOfEncode : Obligations.DecodeOfEncode := decodeRequest_encodeRequest

/-- Settles O4: an accepted word and the request word of what it decodes to are the same number. -/
theorem encodeOfDecode : Obligations.EncodeOfDecode := fun _ _ => encodeRequest_of_decodeRequest

/-! ### The operations as ranges of numbers -/

theorem exists_decodeRequest_encode_iff (w : RequestWord) :
    (∃ s, decodeRequest w = .ok (.encode s)) ↔ w.toNat < 0x10000 := by
  simp only [decodeRequest_eq_ok_iff_toNat, toNat_encodeRequest]
  constructor
  · rintro ⟨s, hs⟩
    exact hs ▸ s.isLt
  · intro hw
    exact ⟨.ofNat 16 w.toNat, Nat.mod_eq_of_lt hw⟩

theorem exists_decodeRequest_decode_iff (w : RequestWord) :
    (∃ cd, decodeRequest w = .ok (.decode cd)) ↔ 0x10000 ≤ w.toNat ∧ w.toNat < 0x10100 := by
  simp only [decodeRequest_eq_ok_iff_toNat, toNat_encodeRequest]
  constructor
  · rintro ⟨cd, hcd⟩
    have := cd.isLt
    omega
  · rintro ⟨hlo, hhi⟩
    refine ⟨.ofNat 8 (w.toNat - 0x10000), ?_⟩
    rw [BitVec.toNat_ofNat]
    omega

theorem exists_decodeRequest_search_iff (w : RequestWord) :
    (∃ v, decodeRequest w = .ok (.search v)) ↔ 0x20000 ≤ w.toNat ∧ w.toNat < 0x28000 := by
  simp only [decodeRequest_eq_ok_iff_toNat, toNat_encodeRequest]
  constructor
  · rintro ⟨v, hv⟩
    have := v.isLt
    omega
  · rintro ⟨hlo, hhi⟩
    refine ⟨.ofNat 15 (w.toNat - 0x20000), ?_⟩
    rw [BitVec.toNat_ofNat]
    omega

/-- A word is accepted when it is read as one of the three operations. -/
theorem exists_decodeRequest_iff (w : RequestWord) :
    (∃ i, decodeRequest w = .ok i) ↔ (∃ s, decodeRequest w = .ok (.encode s)) ∨
      (∃ cd, decodeRequest w = .ok (.decode cd)) ∨ ∃ v, decodeRequest w = .ok (.search v) := by
  constructor
  · rintro ⟨s | cd | v, h⟩
    · exact .inl ⟨s, h⟩
    · exact .inr (.inl ⟨cd, h⟩)
    · exact .inr (.inr ⟨v, h⟩)
  · rintro (⟨_, h⟩ | ⟨_, h⟩ | ⟨_, h⟩) <;> exact ⟨_, h⟩

/-! ### The rows as ranges of numbers -/

/-- A mask of ones from bit `n` up clears the bits below it. -/
theorem and_allOnes_shiftLeft {len : Nat} (n : Nat) (w : BitVec len) :
    w &&& (BitVec.allOnes len <<< n) = w >>> n <<< n := by
  ext i hi
  by_cases h : i < n
  · simp [h]
  · have hin : n + (i - n) = i := by omega
    simp [h, hin, BitVec.getLsbD_eq_getElem hi]

/-- Such a mask compares the quotient by `2 ^ n`. -/
theorem and_topMask_eq_iff (n : Nat) (w m : RequestWord) :
    w &&& (BitVec.allOnes 18 <<< n) = m ↔ w.toNat / 2 ^ n * 2 ^ n = m.toNat := by
  have hlt : w.toNat / 2 ^ n * 2 ^ n < 2 ^ 18 := (Nat.div_mul_le_self _ _).trans_lt w.isLt
  rw [and_allOnes_shiftLeft, ← BitVec.toNat_inj, BitVec.toNat_shiftLeft, BitVec.toNat_ushiftRight,
    Nat.shiftRight_eq_div_pow, Nat.shiftLeft_eq, Nat.mod_eq_of_lt hlt]

theorem encodeRow_selects_iff (w : RequestWord) : w &&& 0x30000#18 = 0x00000#18 ↔ w.toNat < 0x10000 := by
  rw [show (0x30000#18 : RequestWord) = BitVec.allOnes 18 <<< 16 from rfl, and_topMask_eq_iff, BitVec.toNat_ofNat]
  omega

theorem decodeRow_selects_iff (w : RequestWord) :
    w &&& 0x3FF00#18 = 0x10000#18 ↔ 0x10000 ≤ w.toNat ∧ w.toNat < 0x10100 := by
  rw [show (0x3FF00#18 : RequestWord) = BitVec.allOnes 18 <<< 8 from rfl, and_topMask_eq_iff, BitVec.toNat_ofNat]
  omega

theorem searchRow_selects_iff (w : RequestWord) :
    w &&& 0x38000#18 = 0x20000#18 ↔ 0x20000 ≤ w.toNat ∧ w.toNat < 0x28000 := by
  rw [show (0x38000#18 : RequestWord) = BitVec.allOnes 18 <<< 15 from rfl, and_topMask_eq_iff, BitVec.toNat_ofNat]
  omega

theorem wellFormedWord_iff (w : RequestWord) :
    wellFormedWord w = true ↔
      w &&& 0x30000#18 = 0x00000#18 ∨ w &&& 0x3FF00#18 = 0x10000#18 ∨ w &&& 0x38000#18 = 0x20000#18 := by
  simp [wellFormedWord, opcodeRows, rowSelects, encodeRow, decodeRow, searchRow]

/-- The ranges of the rows are disjoint, so no two of them select one word. -/
theorem length_filter_rowSelects_le_one (w : RequestWord) : (opcodeRows.filter (rowSelects · w)).length ≤ 1 := by
  have hencode : rowSelects encodeRow w = decide (w.toNat < 0x10000) := by
    simp only [rowSelects, beq_eq_decide, encodeRow, encodeRow_selects_iff]
  have hdecode : rowSelects decodeRow w = decide (0x10000 ≤ w.toNat ∧ w.toNat < 0x10100) := by
    simp only [rowSelects, beq_eq_decide, decodeRow, decodeRow_selects_iff]
  have hsearch : rowSelects searchRow w = decide (0x20000 ≤ w.toNat ∧ w.toNat < 0x28000) := by
    simp only [rowSelects, beq_eq_decide, searchRow, searchRow_selects_iff]
  simp only [opcodeRows, List.filter_cons, List.filter_nil, hencode, hdecode, hsearch, decide_eq_true_eq]
  split_ifs <;> simp only [List.length_cons, List.length_nil] <;> omega

/-- Settles O7: a row and its operation are the same range of numbers, and the three ranges are disjoint. -/
theorem matchMaskRowsAgree : Obligations.MatchMaskRowsAgree := by
  intro w
  have hencode := (encodeRow_selects_iff w).trans (exists_decodeRequest_encode_iff w).symm
  have hdecode := (decodeRow_selects_iff w).trans (exists_decodeRequest_decode_iff w).symm
  have hsearch := (searchRow_selects_iff w).trans (exists_decodeRequest_search_iff w).symm
  refine ⟨hencode, hdecode, hsearch, ?_, length_filter_rowSelects_le_one w⟩
  rw [wellFormedWord_iff, exists_decodeRequest_iff, hencode, hdecode, hsearch]

end Sys2Proof
end

section
/-! Proofs about steps and runs (20_memory.md R26, 70_reset_and_hazards.md R136): a step in terms of the operation it
answers, what it keeps of the record, and the run over a list of operations. -/

namespace Sys2Proof.Machine

/-! ### One step -/

/-- The inversion of a step, by the operation that is answered: its request word is the one that was pending. -/
theorem step_answers {s t : State} (h : step s = .next t) :
    (s.pending = [] ∧ t = s) ∨
    ∃ i, s.pending = encodeRequest i :: t.pending ∧ t.history = s.history ++ [⟨encodeRequest i, response i⟩] := by
  rcases step_cases h with hidle | ⟨w, i, hpending, hdecode, hhistory⟩
  · exact .inl hidle
  · exact .inr ⟨i, by rw [hpending, encodeRequest_of_decodeRequest hdecode], hhistory⟩

/-- What holds of the transaction of every operation, a step keeps for the whole record. -/
theorem step_keeps_forall_history {P : Transaction → Prop} (hP : ∀ i, P ⟨encodeRequest i, response i⟩)
    {s t : State} (hs : ∀ x ∈ s.history, P x) (h : step s = .next t) : ∀ x ∈ t.history, P x := by
  rcases step_answers h with ⟨-, rfl⟩ | ⟨i, -, hhistory⟩
  · exact hs
  · rw [hhistory, List.forall_mem_append, List.forall_mem_singleton]
    exact ⟨hs, hP i⟩

theorem trueTransaction_of_response (i : Instr) : TrueTransaction ⟨encodeRequest i, response i⟩ := by
  simp [TrueTransaction, answer]

/-- Settles O13: the one transaction a step adds carries the function value of its operation. -/
theorem historyTrueKept : Obligations.HistoryTrueKept := fun _ _ hs h =>
  step_keeps_forall_history trueTransaction_of_response hs h

/-- Settles O16: what a step takes from the pending requests is the request it records. -/
theorem stepKeepsIssuedRequests : Obligations.StepKeepsIssuedRequests := by
  intro s t h
  rcases step_answers h with ⟨hpending, rfl⟩ | ⟨i, hpending, hhistory⟩
  · simp [hpending]
  · simp [issued, hpending, hhistory]

/-- Settles O12: the response is the function value of the operation, which no state enters. -/
theorem sameAnswerInEveryState : Obligations.SameAnswerInEveryState := by
  rintro w ⟨i, hi⟩
  refine ⟨response i, fun s => ?_⟩
  rw [← encodeRequest_of_decodeRequest hi, step_present_encodeRequest]

/-- Settles O8: the oldest request is the one a step takes. -/
theorem stepRunsDecoded : Obligations.StepRunsDecoded := by
  intro s w rest i hpending hi
  have htake : takeRequest s = some (w, { s with pending := rest }) := takeRequest_eq_some.2 ⟨hpending, rfl⟩
  simp only [step, htake, hi]

/-- Settles O9: with nothing to take a step is idle. -/
theorem stepWithoutRequestChangesNothing : Obligations.StepWithoutRequestChangesNothing := by
  intro s hpending
  have htake : takeRequest s = none := takeRequest_eq_none.2 hpending
  simp only [step, htake, idle]

/-- Settles O11: every operation delivers its response, and a delivery adds one transaction. -/
theorem operationFrame : Obligations.OperationFrame := by
  intro i s t h
  rw [exec_eq_deliver, deliver_eq_next] at h
  obtain ⟨hpending, hhistory⟩ := h
  exact ⟨hpending, response i, hhistory⟩

/-- Settles O15: right after reset no transaction is recorded. -/
theorem invariantsAtReset : Obligations.InvariantsAtReset := by
  constructor
  · intro t ht
    cases ht
  · intro t ht
    cases ht

/-! ### Runs -/

/-- A run whose first step answers goes on from the state it answers. -/
theorem run_succ_of_step {M : Host.Core} {s t : M.State} (h : M.step s = .next t) (k : Nat) :
    M.run (k + 1) s = M.run k t := by
  rw [Host.Core.run, h]

/-- Settles O17, by induction on the list of operations, over every earlier history. -/
theorem runAnswersEveryRequest : Obligations.RunAnswersEveryRequest := by
  intro is
  induction is with
  | nil =>
    intro h
    simp [Host.Core.run]
  | cons i is ih =>
    intro h
    have hfirst : core.step ({ pending := (i :: is).map encodeRequest, history := h } : State) =
        .next ({ pending := is.map encodeRequest, history := h ++ [⟨encodeRequest i, response i⟩] } : State) :=
      step_present_encodeRequest i { pending := is.map encodeRequest, history := h }
    have hrun := (run_succ_of_step hfirst is.length).trans (ih _)
    simpa using hrun

/-- Settles O18: each transaction depends on its own operation alone, so a reordering of the operations reorders them. -/
theorem orderOfRequestsIsImmaterial : Obligations.OrderOfRequestsIsImmaterial := fun is js h =>
  ⟨_, _, runAnswersEveryRequest is [], runAnswersEveryRequest js [], h.map _⟩

end Sys2Proof.Machine
end

section
/-! Proofs about the forms of the search derived in 40_segment_search.md: which powers of 2 lie at or below the operand
decides the index, and every other form follows. -/

namespace Sys2Proof.Machine

/-- The entries are one less than the powers of 2 from 64 on (R14). -/
theorem getD_segUend_succ : ∀ k < 8, segUend.getD k 0 + 1 = 2 ^ (k + 6) := by decide

/-- The index passes `k` exactly from `2 ^ (k + 6)` on (R50, R56). -/
theorem lt_segSearch_iff {k v : Nat} : k < segSearch v ↔ k < 8 ∧ 2 ^ (k + 6) ≤ v := by
  constructor
  · intro h
    have hk : k < 8 := h.trans_le (segSearch_le_eight v)
    exact ⟨hk, getD_segUend_succ k hk ▸ getD_lt_of_lt_segSearch h⟩
  · rintro ⟨hk, hv⟩
    by_contra hle
    have hseg : segSearch v < 8 := (not_lt.1 hle).trans_lt hk
    have hentry := le_getD_segSearch hseg
    have hpow : 2 ^ (segSearch v + 6) ≤ 2 ^ (k + 6) := Nat.pow_le_pow_right (by decide) (by omega)
    have hsucc := getD_segUend_succ _ hseg
    omega

/-- The scan of an ascending list stops after the entries below `v`, which are all of them (R53). -/
theorem firstAtLeast_eq_length_filter {ts : List Nat} (hts : ts.Pairwise (· ≤ ·)) (k v : Nat) :
    firstAtLeast ts k v = k + (ts.filter (· < v)).length := by
  induction ts generalizing k with
  | nil => rfl
  | cons t ts ih =>
    obtain ⟨hhead, htail⟩ := List.pairwise_cons.1 hts
    rw [firstAtLeast]
    split
    next hv =>
      have hnone : (t :: ts).filter (· < v) = [] := by
        rw [List.filter_eq_nil_iff, List.forall_mem_cons]
        simp only [decide_eq_true_eq, not_lt]
        exact ⟨hv, fun x hx => hv.trans (hhead x hx)⟩
      rw [hnone, List.length_nil, Nat.add_zero]
    next hv =>
      rw [ih htail, List.filter_cons_of_pos (by simpa using hv), List.length_cons]
      omega

/-- The bit length passes `k + 6` exactly from `2 ^ (k + 6)` on, as the index passes `k` (R53). -/
theorem segSearch_eq_min_size (v : Nat) : segSearch v = min 8 (Nat.size v - 6) := by
  refine eq_of_forall_lt_iff fun k => ?_
  rw [lt_segSearch_iff, ← Nat.lt_size]
  omega

/-- Settles O24: the table ascends, and its entries are the bounds of the bit lengths. -/
theorem searchClosedForms : Obligations.SearchClosedForms := by
  intro v
  have hcount := firstAtLeast_eq_length_filter (ts := segUend) (by decide) 0 v
  rw [Nat.zero_add] at hcount
  exact ⟨hcount, segSearch_eq_min_size v⟩

/-- Settles O25: an index is what the search reaches and does not pass. -/
theorem searchSegmentBounds : Obligations.SearchSegmentBounds := by
  constructor
  · intro v
    have hpass : 0 < segSearch v ↔ 0 < 8 ∧ 2 ^ (0 + 6) ≤ v := lt_segSearch_iff
    omega
  · intro v k hk1 hk7
    have hreach : k - 1 < segSearch v ↔ k - 1 < 8 ∧ 2 ^ (k - 1 + 6) ≤ v := lt_segSearch_iff
    have hpass : k < segSearch v ↔ k < 8 ∧ 2 ^ (k + 6) ≤ v := lt_segSearch_iff
    rw [show k - 1 + 6 = k + 5 by omega] at hreach
    have hpos : 0 < 2 ^ (k + 6) := Nat.two_pow_pos _
    omega

/-- Settles O26: both searches are nested comparisons with the same thresholds; a value on one path of each is on the same
side of every threshold. -/
theorem binarySearchAgrees : Obligations.BinarySearchAgrees := by
  intro v
  rw [segSearch_eq]
  split_ifs <;> omega

end Sys2Proof.Machine
end

section
/-! Proofs about the codes of `ENCODE` (41_ulaw_encode.md): the biased magnitude at which each byte before the mask
begins, the byte and the code as the cell the magnitude lies in, and the ranges and laws that follow. -/

namespace Sys2Proof.Machine

/-! ### The shift -/

/-- Settles O28: the shift is the floor, and at -1 the floor is not the quotient toward zero. -/
theorem encodeShiftIsFloor : Obligations.EncodeShiftIsFloor := by
  refine ⟨encShifted_eq_div, fun n hlo hhi => ?_, by decide, ⟨BitVec.ofInt 16 (-1), by decide⟩⟩
  have hn : (BitVec.ofInt 16 (-(n : Int))).toInt = -(n : Int) :=
    BitVec.toInt_ofInt_eq_self (by decide) (by omega) (by omega)
  rw [encShifted_eq_div, hn]
  omega

/-! ### Where the cells begin -/

/-- The biased magnitude at which the byte `u` before the mask begins: for segment `k` and mantissa `q`, that is for
`u = 16 k + q`, it is `(16 + q) 2^(k+1)` (R75). -/
def cellStart (u : Nat) : Nat := (16 + u % 16) * 2 ^ (u / 16 + 1)

theorem cellStart_segment_mantissa (k : Nat) {q : Nat} (hq : q < 16) :
    cellStart (16 * k + q) = (16 + q) * 2 ^ (k + 1) := by
  have hk : (16 * k + q) / 16 = k := by omega
  have hm : (16 * k + q) % 16 = q := by omega
  rw [cellStart, hk, hm]

/-- A cell is one quantisation step long, across the segments too (R75, R109). -/
theorem cellStart_succ (u : Nat) : cellStart (u + 1) = cellStart u + 2 ^ (u / 16 + 1) := by
  by_cases h : u % 16 = 15
  · have hk : (u + 1) / 16 = u / 16 + 1 := by omega
    have hm : (u + 1) % 16 = 0 := by omega
    rw [cellStart, cellStart, hk, hm, h, pow_succ]
    ring
  · have hk : (u + 1) / 16 = u / 16 := by omega
    have hm : (u + 1) % 16 = u % 16 + 1 := by omega
    rw [cellStart, cellStart, hk, hm]
    ring

theorem cellStart_succ_segment_mantissa (k : Nat) {q : Nat} (hq : q < 16) :
    cellStart (16 * k + q + 1) = (17 + q) * 2 ^ (k + 1) := by
  have hk : (16 * k + q) / 16 = k := by omega
  rw [cellStart_succ, cellStart_segment_mantissa k hq, hk]
  ring

theorem cellStart_strictMono : StrictMono cellStart :=
  strictMono_nat_of_lt_succ fun u => cellStart_succ u ▸ Nat.lt_add_of_pos_right (Nat.two_pow_pos _)

/-- Every cell begins at an even biased magnitude. -/
theorem two_dvd_cellStart (u : Nat) : 2 ∣ cellStart u :=
  Dvd.dvd.mul_left (dvd_pow_self 2 (Nat.succ_ne_zero _)) _

/-- Every cell of a byte begins below the greatest biased magnitude, and ends there at the latest. -/
theorem cellStart_le {u : Nat} (hu : u < 128) : cellStart u ≤ 7936 ∧ cellStart (u + 1) ≤ 8192 :=
  ⟨cellStart_strictMono.monotone (Nat.le_of_lt_succ hu : u ≤ 127), cellStart_strictMono.monotone (hu : u + 1 ≤ 128)⟩

/-- The first cell begins at 32, the others from 34 on. -/
theorem cellStart_ge (u : Nat) : 32 ≤ cellStart u ∧ (0 < u → 34 ≤ cellStart u) :=
  ⟨cellStart_strictMono.monotone (Nat.zero_le u), fun hu => cellStart_strictMono.monotone (hu : 1 ≤ u)⟩

/-! ### The cell a sample lies in -/

theorem encBiased_eq (x : Sample) : encBiased x = min (encMagnitude x) 8159 + 33 := rfl

theorem two_pow_le_encBiased (x : Sample) : 2 ^ (encSegment x + 5) ≤ encBiased x := by
  cases hk : encSegment x with
  | zero => exact (show 2 ^ 5 ≤ 33 by decide).trans (encBiased_bounds x).1
  | succ k =>
    have hlt : k < encSegment x := hk ▸ Nat.lt_succ_self k
    exact (lt_segSearch_iff.1 hlt).2

theorem encBiased_lt_two_pow {x : Sample} (h : encSegment x < 8) : encBiased x < 2 ^ (encSegment x + 6) := by
  by_contra hge
  have hpass : encSegment x < segSearch (encBiased x) := lt_segSearch_iff.2 ⟨h, not_lt.1 hge⟩
  exact lt_irrefl _ hpass

/-- The leading one is the bit above the mantissa (R71). -/
theorem encBiased_div_bounds {x : Sample} (h : encSegment x < 8) :
    16 ≤ encBiased x / 2 ^ (encSegment x + 1) ∧ encBiased x / 2 ^ (encSegment x + 1) < 32 := by
  have hlo := two_pow_le_encBiased x
  have hhi := encBiased_lt_two_pow h
  constructor
  · rw [Nat.le_div_iff_mul_le (Nat.two_pow_pos _)]
    calc 16 * 2 ^ (encSegment x + 1) = 2 ^ (encSegment x + 5) := by ring
      _ ≤ encBiased x := hlo
  · rw [Nat.div_lt_iff_lt_mul (Nat.two_pow_pos _)]
    calc encBiased x < 2 ^ (encSegment x + 6) := hhi
      _ = 32 * 2 ^ (encSegment x + 1) := by ring

theorem encBiased_div_eq {x : Sample} (h : encSegment x < 8) :
    encBiased x / 2 ^ (encSegment x + 1) = 16 + encMantissa x := by
  obtain ⟨hlo, hhi⟩ := encBiased_div_bounds h
  rw [encMantissa_eq]
  omega

/-- Settles O30: dividing by `2 ^ (k + 1)` leaves the leading one and the mantissa below it. -/
theorem encodeMantissaBelowLeadingOne : Obligations.EncodeMantissaBelowLeadingOne := by
  intro x h
  have hq := encMantissa_lt x
  rw [Nat.shiftRight_eq_div_pow, encBiased_div_eq h]
  omega

/-- A sample of a segment below 8 lies in the cell of its byte before the mask (R75). -/
theorem encBiased_in_cell {x : Sample} (h : encSegment x < 8) :
    cellStart (encPreMask x) ≤ encBiased x ∧ encBiased x < cellStart (encPreMask x + 1) := by
  have hq := encMantissa_lt x
  have hdiv := encBiased_div_eq h
  rw [encPreMask_of_encSegment_lt h, cellStart_segment_mantissa _ hq, cellStart_succ_segment_mantissa _ hq]
  constructor
  · rw [← hdiv]
    exact Nat.div_mul_le_self _ _
  · rw [← Nat.div_lt_iff_lt_mul (Nat.two_pow_pos _), hdiv]
    omega

/-- The cell of a sample on its magnitude before the clip: the last cell has no upper end (R72, R75). -/
theorem encMagnitude_in_cell (x : Sample) :
    cellStart (encPreMask x) ≤ encMagnitude x + 33 ∧
    (encMagnitude x + 33 < cellStart (encPreMask x + 1) ∨ encPreMask x = 127) := by
  have hb := encBiased_eq x
  rcases (encSegment_le_eight x).lt_or_eq with hlt | heq
  · obtain ⟨hlo, hhi⟩ := encBiased_in_cell hlt
    have hend := (cellStart_le (encPreMask_lt x)).2
    omega
  · have hstart := (cellStart_le (encPreMask_lt x)).1
    have hclip := (encSegment_eq_eight_iff x).1 heq
    exact ⟨by omega, .inr (encPreMask_of_encSegment_eq_eight heq)⟩

/-- The byte before the mask is `u` exactly for the magnitudes of the cell of `u` (R75). -/
theorem encPreMask_eq_iff {x : Sample} {u : Nat} (hu : u < 128) :
    encPreMask x = u ↔
      cellStart u ≤ encMagnitude x + 33 ∧ (encMagnitude x + 33 < cellStart (u + 1) ∨ u = 127) := by
  constructor
  · rintro rfl
    exact encMagnitude_in_cell x
  · rintro ⟨hlo, hhi⟩
    obtain ⟨hlo', hhi'⟩ := encMagnitude_in_cell x
    have hx := encPreMask_lt x
    rcases Nat.lt_trichotomy (encPreMask x) u with hlt | heq | hgt
    · have hstep : cellStart (encPreMask x + 1) ≤ cellStart u := cellStart_strictMono.monotone hlt
      omega
    · exact heq
    · have hstep : cellStart (u + 1) ≤ cellStart (encPreMask x) := cellStart_strictMono.monotone hgt
      omega

/-- The byte before the mask rises with the magnitude. -/
theorem encPreMask_mono {x y : Sample} (h : encMagnitude x ≤ encMagnitude y) : encPreMask x ≤ encPreMask y := by
  by_contra hlt
  have hstep : cellStart (encPreMask y + 1) ≤ cellStart (encPreMask x) :=
    cellStart_strictMono.monotone (not_le.1 hlt)
  obtain ⟨hlo, -⟩ := encMagnitude_in_cell x
  obtain ⟨-, hhi⟩ := encMagnitude_in_cell y
  have hx := encPreMask_lt x
  omega

/-- Only magnitude 0 has byte 0 before the mask: the bias takes it to 33, the last of the first cell. -/
theorem encPreMask_eq_zero_iff (x : Sample) : encPreMask x = 0 ↔ encMagnitude x = 0 := by
  have hstart : cellStart 0 = 32 := by decide
  have hend : cellStart (0 + 1) = 34 := by decide
  rw [encPreMask_eq_iff (by decide), hstart, hend]
  omega

/-! ### The code -/

theorem encMask_of_nonneg {x : Sample} (h : 0 ≤ encShifted x) : encMask x = 255 := by
  rw [encMask_eq, if_neg h.not_gt]

theorem encMask_of_neg {x : Sample} (h : encShifted x < 0) : encMask x = 127 := by
  rw [encMask_eq, if_pos h]

/-- On the non-negative side the code is 255 less the byte before the mask (R68). -/
theorem ulawEncode_of_nonneg {x : Sample} (h : 0 ≤ encShifted x) : ulawEncode x = 255 - encPreMask x := by
  rw [ulawEncode_eq_sub, encMask_of_nonneg h]

/-- On the negative side the code is 127 less the byte before the mask (R68). -/
theorem ulawEncode_of_neg {x : Sample} (h : encShifted x < 0) : ulawEncode x = 127 - encPreMask x := by
  rw [ulawEncode_eq_sub, encMask_of_neg h]

/-- The shift keeps the sign of the sample (R61, R62). -/
theorem encShifted_neg_iff (x : Sample) : encShifted x < 0 ↔ x.toInt < 0 := by
  rw [encShifted_eq_div]
  omega

theorem encShifted_nonneg_iff (x : Sample) : 0 ≤ encShifted x ↔ 0 ≤ x.toInt := by
  rw [encShifted_eq_div]
  omega

/-- A negative sample has a magnitude, so its byte before the mask is not 0 (R74). -/
theorem encPreMask_pos_of_neg {x : Sample} (h : encShifted x < 0) : 0 < encPreMask x := by
  have hm := encMagnitude_eq_natAbs x
  have hzero := encPreMask_eq_zero_iff x
  omega

/-- `ENCODE` never gives 0x7F: that code would be a negative sample of magnitude 0 (R74). -/
theorem ulawEncode_ne (x : Sample) : ulawEncode x ≠ 0x7F := by
  have hu := encPreMask_lt x
  rcases lt_or_ge (encShifted x) 0 with hneg | hnonneg
  · have hpos := encPreMask_pos_of_neg hneg
    rw [ulawEncode_of_neg hneg]
    omega
  · rw [ulawEncode_of_nonneg hnonneg]
    omega

theorem ulawEncode_eq_nonneg_iff {x : Sample} {u : Nat} (hu : u < 128) :
    ulawEncode x = 255 - u ↔ 0 ≤ encShifted x ∧ encPreMask x = u := by
  have hx := encPreMask_lt x
  rcases lt_or_ge (encShifted x) 0 with hneg | hnonneg
  · rw [ulawEncode_of_neg hneg]
    omega
  · rw [ulawEncode_of_nonneg hnonneg]
    omega

theorem ulawEncode_eq_neg_iff {x : Sample} {u : Nat} (hu : u < 128) :
    ulawEncode x = 127 - u ↔ encShifted x < 0 ∧ encPreMask x = u := by
  have hx := encPreMask_lt x
  rcases lt_or_ge (encShifted x) 0 with hneg | hnonneg
  · rw [ulawEncode_of_neg hneg]
    omega
  · rw [ulawEncode_of_nonneg hnonneg]
    omega

/-- The response decides the code. -/
theorem answers_encode_iff {x : Sample} {c : Nat} (hc : c < 65536) :
    Answers (.encode x) (BitVec.ofNat 16 c) ↔ ulawEncode x = c := by
  have hx := ulawEncode_le x
  rw [answers_iff, response_encode, ← BitVec.toNat_inj, BitVec.toNat_ofNat, BitVec.toNat_ofNat]
  omega

/-- The code depends on the sign and the clipped magnitude alone (R62 to R68). -/
theorem encoderUnit_congr {x y : Sample} (hneg : encNegative x = encNegative y) (hclip : encClipped x = encClipped y) :
    encoderUnit x = encoderUnit y := by
  have hbiased : encBiased x = encBiased y := by rw [encBiased, encBiased, hclip]
  have hsegment : encSegment x = encSegment y := by rw [encSegment, encSegment, hbiased]
  have hmantissa : encMantissa x = encMantissa y := by rw [encMantissa, encMantissa, hbiased, hsegment]
  have hbyte : encPreMask x = encPreMask y := by rw [encPreMask, encPreMask, hsegment, hmantissa]
  rw [encoderUnit, encoderUnit, ulawEncode, ulawEncode, encMask, encMask, hbyte, hneg]

/-! ### The statements -/

/-- Settles O29: each range is that of the wire's own rule; the magnitude 8192 is that of -8192 alone. -/
theorem encodeWireRanges : Obligations.EncodeWireRanges := by
  intro x
  obtain ⟨hlo, hhi⟩ := encShifted_bounds x
  have hm := encMagnitude_eq_natAbs x
  have hp := encShifted_eq_div x
  exact ⟨⟨hlo, hhi⟩, encMask_eq x, by omega, by omega, min_le_right _ _, encBiased_bounds x, encSegment_le_eight x,
    Nat.le_of_lt_succ (encMantissa_lt x), Nat.le_of_lt_succ (encPreMask_lt x), ulawEncode_le x⟩

/-- The magnitudes from the clip value on, on the sample (R72). -/
theorem clip_le_encMagnitude_iff (x : Sample) :
    8159 ≤ encMagnitude x ↔ 32636 ≤ x.toInt ∨ x.toInt ≤ -32633 := by
  have hm := encMagnitude_eq_natAbs x
  have hp := encShifted_eq_div x
  omega

/-- One below the clip value the byte is that of the clip value, though the segment is not (R72). -/
theorem encMagnitude_below_clip {x : Sample} (h : encMagnitude x = 8158) :
    encBiased x = 8191 ∧ encSegment x = 7 ∧ encPreMask x = 0x7F := by
  have hb : encBiased x = 8191 := by rw [encBiased_eq, h]; rfl
  have hstart : cellStart 127 = 7936 := by decide
  exact ⟨hb, by rw [encSegment, hb]; rfl, (encPreMask_eq_iff (by decide)).2 ⟨by omega, .inr rfl⟩⟩

/-- Settles O31: the clip passes exactly the magnitudes below 8159. -/
theorem encodeReachesIndexEight : Obligations.EncodeReachesIndexEight := by
  intro x
  have hclipped : encClipped x = min (encMagnitude x) 8159 := rfl
  have hbiased : encBiased x = encClipped x + 33 := rfl
  exact ⟨encSegment_eq_eight_iff x, by omega, by omega, clip_le_encMagnitude_iff x, encPreMask_of_encSegment_eq_eight,
    encMagnitude_below_clip⟩

/-- Settles O33: a code is a sign and a byte before the mask, and the byte is a cell of magnitudes. -/
theorem encodeIntervalOfEachCode : Obligations.EncodeIntervalOfEachCode := by
  intro k q hk hq x
  have hu : 16 * k + q < 128 := by omega
  have hnonneg : (16 * k + q) ^^^ 0xFF = 255 - (16 * k + q) := xor_nonNegativeMask hu
  have hneg : (16 * k + q) ^^^ 0x7F = 127 - (16 * k + q) := xor_negativeMask hu
  have hstart := cellStart_ge (16 * k + q)
  have hlt : cellStart (16 * k + q) < cellStart (16 * k + q + 1) := cellStart_strictMono (Nat.lt_succ_self _)
  have hp := encShifted_eq_div x
  have hm := encMagnitude_eq_natAbs x
  simp only [segment_or_mantissa hq, hnonneg, hneg]
  simp only [Nat.shiftLeft_eq, ← cellStart_segment_mantissa k hq, ← cellStart_succ_segment_mantissa k hq]
  rw [answers_encode_iff (by omega), answers_encode_iff (by omega), ulawEncode_eq_nonneg_iff hu,
    ulawEncode_eq_neg_iff hu, encPreMask_eq_iff hu]
  omega

/-- Settles O34: the code is the mask less the byte, and below index 8 the byte is segment and mantissa. -/
theorem encodeCodeLayout : Obligations.EncodeCodeLayout := by
  intro x
  have hu := encPreMask_lt x
  have hcode : (encoderUnit x).toNat = encMask x - encPreMask x := by rw [toNat_encoderUnit, ulawEncode_eq_sub]
  have hmask := encMask_eq x
  refine ⟨?_, fun hlt => ?_, fun heq => ?_⟩
  · rw [extractLsb'_eq_iff, hcode, BitVec.toNat_ofNat]
    split at hmask <;> omega
  · have hbyte := encPreMask_of_encSegment_lt hlt
    have hq := encMantissa_lt x
    simp only [BitVec.extractLsb'_toNat, Nat.shiftRight_eq_div_pow, hcode]
    split at hmask <;> omega
  · have hbyte := encPreMask_of_encSegment_eq_eight heq
    rw [extractLsb'_eq_iff, hcode, BitVec.toNat_ofNat]
    split at hmask <;> omega

/-- From the clip value on every sample has the last byte before the mask (R104). -/
theorem encPreMask_of_clip_le {x : Sample} (h : 8159 ≤ encMagnitude x) : encPreMask x = 127 := by
  have hstart : cellStart 127 = 7936 := by decide
  exact (encPreMask_eq_iff (by decide)).2 ⟨by omega, .inr rfl⟩

/-- Settles O35: the clip takes all these magnitudes to 8159, whose byte before the mask is the last. -/
theorem encodeSaturates : Obligations.EncodeSaturates := by
  refine ⟨fun x y hx hy hneg => encoderUnit_congr hneg ?_, fun x hx => ?_, fun x hx => ?_⟩
  · have hclip : clip = 8159 := rfl
    rw [encClipped, encClipped]
    omega
  · have hbyte := encPreMask_of_clip_le ((clip_le_encMagnitude_iff x).2 (.inl hx))
    have hnonneg : 0 ≤ encShifted x := (encShifted_nonneg_iff x).2 (by omega)
    exact (answers_encode_iff (by decide)).2 (by rw [ulawEncode_of_nonneg hnonneg, hbyte])
  · have hbyte := encPreMask_of_clip_le ((clip_le_encMagnitude_iff x).2 (.inr hx))
    have hneg : encShifted x < 0 := (encShifted_neg_iff x).2 (by omega)
    exact (answers_encode_iff (by decide)).2 (by rw [ulawEncode_of_neg hneg, hbyte])

/-- Settles O36: the first step drops the two low bits; 4 and 8 differ above them and share the second cell. -/
theorem encodeIgnoresLowBits : Obligations.EncodeIgnoresLowBits := by
  constructor
  · intro x y h
    have hshifted : encShifted x = encShifted y := congrArg BitVec.toInt h
    have hneg : encNegative x = encNegative y := by rw [encNegative, encNegative, hshifted]
    have hclip : encClipped x = encClipped y := by
      rw [encClipped, encClipped, encMagnitude_eq_natAbs, encMagnitude_eq_natAbs, hshifted]
    have hresponse : encodeResponse x = encodeResponse y := congrArg codeResponse (encoderUnit_congr hneg hclip)
    exact ⟨encodeResponse x, answers_iff.2 rfl, answers_iff.2 hresponse⟩
  · exact ⟨4#16, 8#16, by decide, 0x00FE#16, answers_iff.2 (by decide), answers_iff.2 (by decide)⟩

theorem ulawEncode_antitone_of_nonneg {x y : Sample} (hx : 0 ≤ x.toInt) (hxy : x.toInt ≤ y.toInt) :
    ulawEncode y ≤ ulawEncode x := by
  have hpx := encShifted_eq_div x
  have hpy := encShifted_eq_div y
  have hmx := encMagnitude_eq_natAbs x
  have hmy := encMagnitude_eq_natAbs y
  have hbyte : encPreMask x ≤ encPreMask y := encPreMask_mono (by omega)
  rw [ulawEncode_of_nonneg (by omega), ulawEncode_of_nonneg (by omega)]
  omega

theorem ulawEncode_monotone_of_neg {x y : Sample} (hy : y.toInt < 0) (hxy : x.toInt ≤ y.toInt) :
    ulawEncode x ≤ ulawEncode y := by
  have hpx := encShifted_eq_div x
  have hpy := encShifted_eq_div y
  have hmx := encMagnitude_eq_natAbs x
  have hmy := encMagnitude_eq_natAbs y
  have hbyte : encPreMask y ≤ encPreMask x := encPreMask_mono (by omega)
  rw [ulawEncode_of_neg (by omega), ulawEncode_of_neg (by omega)]
  omega

/-- Settles O37: the byte before the mask rises with the magnitude, and the code falls as the byte rises. -/
theorem encodeCodeOrder : Obligations.EncodeCodeOrder := by
  refine ⟨fun x y hx hxy => ?_, fun x y hy hxy => ?_, by decide, by decide, by decide, by decide⟩
  · simpa only [toNat_encoderUnit] using ulawEncode_antitone_of_nonneg hx hxy
  · simpa only [toNat_encoderUnit] using ulawEncode_monotone_of_neg hy hxy

end Sys2Proof.Machine
end

section
/-! The second invariant of a run: what each operation answers lies in its range (R31, R54, R74, R86). -/

namespace Sys2Proof.Machine

theorem responseInShape_encode (x : Sample) : ResponseInShape ⟨encodeRequest (.encode x), response (.encode x)⟩ := by
  have hle := ulawEncode_le x
  have hvalue : (response (.encode x)).toNat = ulawEncode x := by
    rw [response_encode, BitVec.toNat_ofNat]
    omega
  simp only [ResponseInShape, decodeRequest_encodeRequest, hvalue]
  exact ⟨hle, ulawEncode_ne x⟩

theorem responseInShape_decode (cd : Code) : ResponseInShape ⟨encodeRequest (.decode cd), response (.decode cd)⟩ := by
  have hvalue : (response (.decode cd)).toInt = ulawDecode cd := toInt_decoderUnit cd
  simp only [ResponseInShape, decodeRequest_encodeRequest, hvalue]
  exact ulawDecode_bounds cd

theorem responseInShape_search (v : Magnitude) : ResponseInShape ⟨encodeRequest (.search v), response (.search v)⟩ := by
  have hle := segSearch_le_eight v.toNat
  have hvalue : (response (.search v)).toNat = segSearch v.toNat := by
    rw [response_search, BitVec.toNat_ofNat]
    omega
  simp only [ResponseInShape, decodeRequest_encodeRequest, hvalue]
  exact hle

theorem responseInShape_of_response : ∀ i : Instr, ResponseInShape ⟨encodeRequest i, response i⟩
  | .encode x => responseInShape_encode x
  | .decode cd => responseInShape_decode cd
  | .search v => responseInShape_search v

/-- Settles O14: the one transaction a step adds carries a response in the range of its operation. -/
theorem historyInShapeKept : Obligations.HistoryInShapeKept := fun _ _ hs h =>
  step_keeps_forall_history responseInShape_of_response hs h

end Sys2Proof.Machine
end

section
/-! Proofs about the laws of `DECODE` (42_ulaw_decode.md): the closed form, the sign bit, and the result as four times
the middle of the encoder's cell. -/

namespace Sys2Proof.Machine

/-- Settles O39: each range is that of the wire's own rule. -/
theorem decodeWireRanges : Obligations.DecodeWireRanges := by
  intro cd
  have hu := decComplement_lt cd
  have hsign := decSign_eq cd
  exact ⟨decMantissa_le cd, decBase_bounds cd, decSegment_le cd, decScaled_bounds cd, by omega, ulawDecode_bounds cd,
    toInt_decoderUnit cd⟩

/-! ### The closed form -/

theorem decScaled_closed (cd : Code) : decScaled cd = (2 * decMantissa cd + 33) * 2 ^ (decSegment cd + 2) := by
  rw [decScaled_eq, decBase_eq]
  ring

/-- The two branches of step 5 are one magnitude with two signs, chosen by bit 7 of the code (R85). -/
theorem ulawDecode_eq (cd : Code) :
    ulawDecode cd = if cd.extractLsb' 7 1 = 0#1 then -((decScaled cd : Int) - 132) else (decScaled cd : Int) - 132 := by
  have hbias : (bias : Int) = 132 := rfl
  simp only [ulawDecode, decSign_ne_zero_iff, hbias, neg_sub]

/-- The mantissa on the wire is inverted (R81, R82). -/
theorem decMantissa_eq_field (cd : Code) : decMantissa cd = 15 - (cd.extractLsb' 0 4).toNat := by
  have hcd := cd.isLt
  rw [decMantissa_eq, decComplement_eq, BitVec.extractLsb'_toNat, Nat.shiftRight_eq_div_pow]
  omega

/-- The segment on the wire is inverted (R81, R83). -/
theorem decSegment_eq_field (cd : Code) : decSegment cd = 7 - (cd.extractLsb' 4 3).toNat := by
  have hcd := cd.isLt
  rw [decSegment_eq, decComplement_eq, BitVec.extractLsb'_toNat, Nat.shiftRight_eq_div_pow]
  omega

/-- Settles O40: base and scale multiply out. -/
theorem decodeClosedForm : Obligations.DecodeClosedForm := by
  intro cd
  have hscaled : (decScaled cd : Int) = ((2 * decMantissa cd + 33 : Nat) : Int) * 2 ^ (decSegment cd + 2) := by
    rw [decScaled_closed]
    push_cast
    rfl
  simp only [← decMantissa_eq_field, ← decSegment_eq_field, ← hscaled, ← ulawDecode_eq]
  exact answers_decode cd

/-! ### The result and the cells of the encoder -/

/-- The low seven bits of the complement are segment and mantissa side by side (R82, R83). -/
theorem decComplement_mod (cd : Code) : decComplement cd % 128 = 16 * decSegment cd + decMantissa cd := by
  rw [decSegment_eq, decMantissa_eq]
  omega

/-- The scaled magnitude is four times the middle of the encoder's cell: the sum of its two ends, twice. -/
theorem decScaled_eq_cell (cd : Code) :
    decScaled cd = 2 * (cellStart (decComplement cd % 128) + cellStart (decComplement cd % 128 + 1)) := by
  have hq : decMantissa cd < 16 := Nat.lt_succ_of_le (decMantissa_le cd)
  rw [decComplement_mod, cellStart_segment_mantissa _ hq, cellStart_succ_segment_mantissa _ hq, decScaled_closed]
  ring

theorem decScaled_congr {c d : Code} (h : decComplement c % 128 = decComplement d % 128) :
    decScaled c = decScaled d := by
  rw [decScaled_eq_cell, decScaled_eq_cell, h]

theorem ulawDecode_of_lt {cd : Code} (h : cd.toNat < 128) : ulawDecode cd = 132 - (decScaled cd : Int) := by
  have hsign : decSign cd ≠ 0 := by
    rw [decSign_eq, decComplement_eq]
    omega
  exact if_pos hsign

theorem ulawDecode_of_ge {cd : Code} (h : 128 ≤ cd.toNat) : ulawDecode cd = (decScaled cd : Int) - 132 := by
  have hsign : ¬ decSign cd ≠ 0 := by
    rw [decSign_eq, decComplement_eq]
    omega
  exact if_neg hsign

/-- The first cell alone is decoded to 132, from which the bias leaves nothing. -/
theorem decScaled_eq_bias_iff (cd : Code) : decScaled cd = 132 ↔ decComplement cd % 128 = 0 := by
  rw [decScaled_eq_cell]
  generalize decComplement cd % 128 = u
  constructor
  · intro h
    have hstart := (cellStart_ge u).2
    have hend := (cellStart_ge (u + 1)).2
    omega
  · rintro rfl
    decide

/-! ### The sign bit -/

/-- Flipping bit 7 moves a code by half the range. -/
theorem toNat_xor_signBit (cd : Code) : (cd ^^^ 0x80#8).toNat = (cd.toNat + 128) % 256 := by
  have hadd : ∀ cd : Code, cd ^^^ 0x80#8 = cd + 0x80#8 := by decide
  rw [hadd, BitVec.toNat_add]
  rfl

/-- Bit 7 is the sign and nothing but the sign (R88). -/
theorem ulawDecode_xor_signBit (cd : Code) : ulawDecode (cd ^^^ 0x80#8) = -ulawDecode cd := by
  have hflip := toNat_xor_signBit cd
  have hcd := cd.isLt
  have hscaled : decScaled (cd ^^^ 0x80#8) = decScaled cd := by
    apply decScaled_congr
    rw [decComplement_eq, decComplement_eq]
    omega
  rcases lt_or_ge cd.toNat 128 with hlt | hge
  · rw [ulawDecode_of_lt hlt, ulawDecode_of_ge (by omega), hscaled, neg_sub]
  · rw [ulawDecode_of_ge hge, ulawDecode_of_lt (by omega), hscaled, neg_sub]

theorem ulawDecode_eq_zero_iff (cd : Code) : ulawDecode cd = 0 ↔ cd = 0xFF#8 ∨ cd = 0x7F#8 := by
  have hcd := cd.isLt
  have hzero : ulawDecode cd = 0 ↔ decScaled cd = 132 := by
    rw [ulawDecode_eq]
    split_ifs <;> omega
  rw [hzero, decScaled_eq_bias_iff, decComplement_eq, ← BitVec.toNat_inj, ← BitVec.toNat_inj, BitVec.toNat_ofNat,
    BitVec.toNat_ofNat]
  omega

/-- Settles O41: the exact results are opposite, and so are their patterns. -/
theorem decodeSignSymmetry : Obligations.DecodeSignSymmetry := by
  constructor
  · intro cd r h
    rw [answers_iff] at h ⊢
    rw [h]
    calc -decoderUnit cd = BitVec.ofInt 16 (-ulawDecode cd) := BitVec.ofInt_neg.symm
      _ = decoderUnit (cd ^^^ 0x80#8) := by rw [decoderUnit, ulawDecode_xor_signBit]
  · intro cd
    rw [← ulawDecode_eq_zero_iff, ← toInt_decoderUnit, answers_iff, eq_comm, ← BitVec.toInt_inj]
    rfl

end Sys2Proof.Machine
end

section
/-! Proofs about the composition of the two units (43_properties.md): the round trip as four times the middle of the
sample's cell, and the laws that follow. -/

namespace Sys2Proof.Machine

/-! ### From the encoder to the decoder -/

/-- The complement of a code is the encoder's byte, with bit 7 for a negative sample (R81). -/
theorem decComplement_encoderUnit (x : Sample) :
    decComplement (encoderUnit x) = if encShifted x < 0 then 128 + encPreMask x else encPreMask x := by
  have hu := encPreMask_lt x
  rw [decComplement_eq, toNat_encoderUnit]
  split_ifs with h
  · rw [ulawEncode_of_neg h]
    omega
  · rw [ulawEncode_of_nonneg (not_lt.1 h)]
    omega

/-- Settles O42: bit 7 is free in the byte before the mask, so setting it adds 128. -/
theorem decodeRecoversPreMask : Obligations.DecodeRecoversPreMask := by
  intro x
  have hor : encPreMask x ||| 0x80 = 128 + encPreMask x := by
    rw [Nat.or_comm]
    exact (Nat.two_pow_add_eq_or_of_lt (i := 7) (encPreMask_lt x) 1).symm
  rw [decComplement_encoderUnit, hor]
  simp only [encNegative_eq_true_iff]

theorem decScaled_encoderUnit (x : Sample) :
    decScaled (encoderUnit x) = 2 * (cellStart (encPreMask x) + cellStart (encPreMask x + 1)) := by
  have hu := encPreMask_lt x
  have hbyte : decComplement (encoderUnit x) % 128 = encPreMask x := by
    rw [decComplement_encoderUnit]
    split_ifs <;> omega
  rw [decScaled_eq_cell, hbyte]

/-- The round trip of a non-negative sample is four times the middle of its cell, without the bias. -/
theorem toInt_roundTrip_of_nonneg {x : Sample} (h : 0 ≤ encShifted x) :
    (roundTrip x).toInt = 2 * (cellStart (encPreMask x) + cellStart (encPreMask x + 1)) - 132 := by
  have hu := encPreMask_lt x
  have hbit : 128 ≤ (encoderUnit x).toNat := by
    rw [toNat_encoderUnit, ulawEncode_of_nonneg h]
    omega
  rw [roundTrip, toInt_decoderUnit, ulawDecode_of_ge hbit, decScaled_encoderUnit]
  push_cast
  rfl

/-- The round trip of a negative sample is the same with the other sign. -/
theorem toInt_roundTrip_of_neg {x : Sample} (h : encShifted x < 0) :
    (roundTrip x).toInt = 132 - 2 * (cellStart (encPreMask x) + cellStart (encPreMask x + 1)) := by
  have hu := encPreMask_lt x
  have hbit : (encoderUnit x).toNat < 128 := by
    rw [toNat_encoderUnit, ulawEncode_of_neg h]
    omega
  rw [roundTrip, toInt_decoderUnit, ulawDecode_of_lt hbit, decScaled_encoderUnit]
  push_cast
  rfl

/-! ### Sign and order -/

theorem toInt_roundTrip_nonneg {x : Sample} (h : 0 ≤ encShifted x) : 0 ≤ (roundTrip x).toInt := by
  have hstart := (cellStart_ge (encPreMask x)).1
  have hend := (cellStart_ge (encPreMask x + 1)).2
  rw [toInt_roundTrip_of_nonneg h]
  omega

theorem toInt_roundTrip_neg {x : Sample} (h : encShifted x < 0) : (roundTrip x).toInt < 0 := by
  have hpos := encPreMask_pos_of_neg h
  have hstart := (cellStart_ge (encPreMask x)).2
  have hend := (cellStart_ge (encPreMask x + 1)).2
  rw [toInt_roundTrip_of_neg h]
  omega

/-- Settles O49: the code carries the sign across, and a negative sample is not of the first cell. -/
theorem roundTripKeepsSign : Obligations.RoundTripKeepsSign := fun x =>
  ⟨fun h => toInt_roundTrip_nonneg ((encShifted_nonneg_iff x).2 h),
    fun h => toInt_roundTrip_neg ((encShifted_neg_iff x).2 h)⟩

/-- Settles O44: a sample that round-trips to 0 is non-negative and of the first cell, so of magnitude 0. -/
theorem roundTripToZero : Obligations.RoundTripToZero := by
  refine ⟨fun x => ?_, by decide⟩
  have hp := encShifted_eq_div x
  rcases lt_or_ge (encShifted x) 0 with hneg | hnonneg
  · have hsign := toInt_roundTrip_neg hneg
    omega
  · have hm := encMagnitude_eq_natAbs x
    have hbyte := encPreMask_eq_zero_iff x
    have hcell := decScaled_eq_bias_iff (encoderUnit x)
    rw [decScaled_encoderUnit, decComplement_encoderUnit, if_neg hnonneg.not_gt,
      Nat.mod_eq_of_lt (encPreMask_lt x)] at hcell
    rw [toInt_roundTrip_of_nonneg hnonneg]
    omega

/-- The ends of the cells are in the order of the magnitudes. -/
theorem cellEnds_mono {x y : Sample} (h : encMagnitude x ≤ encMagnitude y) :
    cellStart (encPreMask x) + cellStart (encPreMask x + 1) ≤ cellStart (encPreMask y) + cellStart (encPreMask y + 1) :=
  have hbyte := encPreMask_mono h
  Nat.add_le_add (cellStart_strictMono.monotone hbyte) (cellStart_strictMono.monotone (Nat.add_le_add_right hbyte 1))

/-- Settles O45: on each side the cells are in the order of the magnitudes, and the sides are in the order of the signs. -/
theorem roundTripMonotone : Obligations.RoundTripMonotone := by
  intro x y hxy
  have hpx := encShifted_eq_div x
  have hpy := encShifted_eq_div y
  have hmx := encMagnitude_eq_natAbs x
  have hmy := encMagnitude_eq_natAbs y
  rcases lt_or_ge (encShifted x) 0 with hx | hx <;> rcases lt_or_ge (encShifted y) 0 with hy | hy
  · have hcells := cellEnds_mono (x := y) (y := x) (by omega)
    rw [toInt_roundTrip_of_neg hx, toInt_roundTrip_of_neg hy]
    omega
  · exact (toInt_roundTrip_neg hx).le.trans (toInt_roundTrip_nonneg hy)
  · omega
  · have hcells := cellEnds_mono (x := x) (y := y) (by omega)
    rw [toInt_roundTrip_of_nonneg hx, toInt_roundTrip_of_nonneg hy]
    omega

/-! ### From the decoder to the encoder -/

/-- The decoded magnitude lies in the cell of the code it was decoded from, for it is the middle of that cell. -/
theorem encPreMask_decoderUnit (cd : Code) : encPreMask (decoderUnit cd) = decComplement cd % 128 := by
  have hscaled := decScaled_eq_cell cd
  have hm := encMagnitude_eq_natAbs (decoderUnit cd)
  have hp := encShifted_eq_div (decoderUnit cd)
  rw [toInt_decoderUnit] at hp
  rw [encPreMask_eq_iff (Nat.mod_lt _ (by decide))]
  generalize decComplement cd % 128 = u at hscaled ⊢
  have hstart := (cellStart_ge u).1
  have hlt : cellStart u < cellStart (u + 1) := cellStart_strictMono (Nat.lt_succ_self u)
  obtain ⟨a, ha⟩ := two_dvd_cellStart u
  obtain ⟨b, hb⟩ := two_dvd_cellStart (u + 1)
  rcases lt_or_ge cd.toNat 128 with hneg | hnonneg
  · have hy := ulawDecode_of_lt hneg
    omega
  · have hy := ulawDecode_of_ge hnonneg
    omega

/-- A negative code is decoded to a negative sample, but for 0x7F, the negative zero (R88). -/
theorem ulawDecode_neg_iff {cd : Code} (h : cd ≠ 0x7F#8) : ulawDecode cd < 0 ↔ cd.toNat < 128 := by
  have hlo := (decScaled_bounds cd).1
  rcases lt_or_ge cd.toNat 128 with hneg | hnonneg
  · have hzero : ulawDecode cd ≠ 0 := by
      rw [Ne, ulawDecode_eq_zero_iff]
      rintro (rfl | rfl)
      · exact absurd hneg (by decide)
      · exact h rfl
    rw [ulawDecode_of_lt hneg] at hzero ⊢
    omega
  · rw [ulawDecode_of_ge hnonneg]
    omega

/-- Re-encoding gives the code back: the cell is that of the code, and so is the sign unless the sample is 0 (R107). -/
theorem encoderUnit_decoderUnit {cd : Code} (h : cd ≠ 0x7F#8) : encoderUnit (decoderUnit cd) = cd := by
  have hcd := cd.isLt
  have hbyte := encPreMask_decoderUnit cd
  have hsign := (encShifted_neg_iff (decoderUnit cd)).trans (toInt_decoderUnit cd ▸ ulawDecode_neg_iff h)
  rw [decComplement_eq] at hbyte
  apply BitVec.eq_of_toNat_eq
  rw [toNat_encoderUnit]
  rcases lt_or_ge (encShifted (decoderUnit cd)) 0 with hneg | hnonneg
  · rw [ulawEncode_of_neg hneg]
    omega
  · rw [ulawEncode_of_nonneg hnonneg]
    omega

theorem encoderUnit_ne (x : Sample) : encoderUnit x ≠ 0x7F#8 := by
  intro h
  have hvalue : ulawEncode x = 0x7F := by rw [← toNat_encoderUnit, h]; rfl
  exact ulawEncode_ne x hvalue

/-- Settles O32: the sign bit bounds the code on each side, and a code other than 0x7F is that of the sample it is decoded
to. -/
theorem encodeProducesAllButOneCode : Obligations.EncodeProducesAllButOneCode := by
  refine ⟨fun x hx => ?_, fun x hx => ?_, fun cd hcd => ⟨decoderUnit cd, encoderUnit_decoderUnit hcd⟩⟩
  · have hu := encPreMask_lt x
    rw [toNat_encoderUnit, ulawEncode_of_nonneg ((encShifted_nonneg_iff x).2 hx)]
    omega
  · have hneg := (encShifted_neg_iff x).2 hx
    have hpos := encPreMask_pos_of_neg hneg
    rw [toNat_encoderUnit, ulawEncode_of_neg hneg]
    omega

/-- Settles O46: a fixed point is decoded from its own code; 0x7F is decoded to 0, whose code is 0xFF. -/
theorem reencodeGivesCodeBack : Obligations.ReencodeGivesCodeBack := by
  refine ⟨fun cd => encoderUnit_decoderUnit, by decide, fun y => ⟨fun h => ⟨encoderUnit y, h⟩, ?_⟩⟩
  rintro ⟨cd, rfl⟩
  by_cases hcd : cd = 0x7F#8
  · subst hcd
    decide
  · rw [roundTrip, encoderUnit_decoderUnit hcd]

/-- Settles O47: the code of a sample is not 0x7F, so re-encoding gives it back. -/
theorem roundTripIdempotent : Obligations.RoundTripIdempotent := by
  intro x
  have hcode : encoderUnit (roundTrip x) = encoderUnit x := encoderUnit_decoderUnit (encoderUnit_ne x)
  exact ⟨congrArg decoderUnit hcode, hcode⟩

/-! ### The error -/

/-- Below the clip value the cell of a sample is one quantisation step of its segment long, and the sample lies in it. -/
theorem encMagnitude_in_step {x : Sample} (h : encSegment x < 8) :
    cellStart (encPreMask x) ≤ encMagnitude x + 33 ∧
    encMagnitude x + 33 < cellStart (encPreMask x) + 2 ^ (encSegment x + 1) ∧
    cellStart (encPreMask x + 1) = cellStart (encPreMask x) + 2 ^ (encSegment x + 1) := by
  have hq := encMantissa_lt x
  have hsegment : encPreMask x / 16 = encSegment x := by
    rw [encPreMask_of_encSegment_lt h]
    omega
  have hstep := cellStart_succ (encPreMask x)
  rw [hsegment] at hstep
  obtain ⟨hlo, hhi⟩ := encBiased_in_cell h
  have hb := encBiased_eq x
  have hclip := encSegment_eq_eight_iff x
  omega

/-- Half a quantisation step of the sample, as twice the length of a cell of magnitudes. -/
theorem two_pow_eq_two_mul_cell (k : Nat) : (2 : Int) ^ (k + 2) = 2 * ((2 ^ (k + 1) : Nat) : Int) := by
  push_cast
  ring

/-- The error of a non-negative sample below the clip value (R109): at most half a step from the middle of the cell, the
sample being up to 3 above four times its magnitude. -/
theorem roundTrip_error_of_nonneg {x : Sample} (h : encSegment x < 8) (hp : 0 ≤ encShifted x) :
    -(2 ^ (encSegment x + 2)) + 1 ≤ (roundTrip x).toInt - x.toInt ∧
    (roundTrip x).toInt - x.toInt ≤ 2 ^ (encSegment x + 2) := by
  obtain ⟨hlo, hhi, hstep⟩ := encMagnitude_in_step h
  have hm := encMagnitude_eq_natAbs x
  have hdiv := encShifted_eq_div x
  rw [toInt_roundTrip_of_nonneg hp, two_pow_eq_two_mul_cell]
  omega

/-- The error of a negative sample below the clip value (R109). -/
theorem roundTrip_error_of_neg {x : Sample} (h : encSegment x < 8) (hp : encShifted x < 0) :
    -(2 ^ (encSegment x + 2)) - 3 ≤ (roundTrip x).toInt - x.toInt ∧
    (roundTrip x).toInt - x.toInt ≤ 2 ^ (encSegment x + 2) - 4 := by
  obtain ⟨hlo, hhi, hstep⟩ := encMagnitude_in_step h
  have hm := encMagnitude_eq_natAbs x
  have hdiv := encShifted_eq_div x
  rw [toInt_roundTrip_of_neg hp, two_pow_eq_two_mul_cell]
  omega

/-- From the clip value on the round trip is 32124 or -32124, and the error grows to the end of the domain (R109). -/
theorem roundTrip_error_of_sentinel {x : Sample} (h : encSegment x = 8) :
    (0 ≤ encShifted x → -643 ≤ (roundTrip x).toInt - x.toInt ∧ (roundTrip x).toInt - x.toInt ≤ -512) ∧
    (encShifted x < 0 → 509 ≤ (roundTrip x).toInt - x.toInt ∧ (roundTrip x).toInt - x.toInt ≤ 644) := by
  have hbyte := encPreMask_of_encSegment_eq_eight h
  have hstart : cellStart 0x7F = 7936 := by decide
  have hend : cellStart (0x7F + 1) = 8192 := by decide
  have hclip : 8159 ≤ encMagnitude x := by
    have hb := encBiased_eq x
    have hsentinel := (encSegment_eq_eight_iff x).1 h
    omega
  have hx := (clip_le_encMagnitude_iff x).1 hclip
  have hlo : -32768 ≤ x.toInt := x.le_toInt
  have hhi : x.toInt < 32768 := x.toInt_lt
  have hdiv := encShifted_eq_div x
  constructor
  · intro hp
    rw [toInt_roundTrip_of_nonneg hp, hbyte, hstart, hend]
    omega
  · intro hp
    rw [toInt_roundTrip_of_neg hp, hbyte, hstart, hend]
    omega

/-- Below the clip value the error is less than a quantisation step of the segment, and 644 bounds it too (R109). -/
theorem abs_roundTrip_error_lt {x : Sample} (h : encSegment x < 8) :
    |(roundTrip x).toInt - x.toInt| < 2 ^ (encSegment x + 3) ∧ |(roundTrip x).toInt - x.toInt| ≤ 644 := by
  have hnonneg := roundTrip_error_of_nonneg h
  have hneg := roundTrip_error_of_neg h
  have hlo : (2 : Int) ^ 2 ≤ 2 ^ (encSegment x + 2) := pow_le_pow_right₀ (by decide) (by omega)
  have hhi : (2 : Int) ^ (encSegment x + 2) ≤ 2 ^ 9 := pow_le_pow_right₀ (by decide) (by omega)
  have hdouble : (2 : Int) ^ (encSegment x + 3) = 2 * 2 ^ (encSegment x + 2) := by ring
  rw [abs_lt, abs_le, hdouble]
  omega

theorem abs_roundTrip_error_le (x : Sample) : |(roundTrip x).toInt - x.toInt| ≤ 644 := by
  rcases (encSegment_le_eight x).lt_or_eq with hlt | heq
  · exact (abs_roundTrip_error_lt hlt).2
  · have herror := roundTrip_error_of_sentinel heq
    rw [abs_le]
    omega

/-- Settles O48: the table is the distance from the middle of a cell to its ends; the ends of the domain are run. -/
theorem roundTripError : Obligations.RoundTripError :=
  ⟨fun x => ⟨roundTrip_error_of_nonneg, roundTrip_error_of_neg, fun h => (roundTrip_error_of_sentinel h).1,
      fun h => (roundTrip_error_of_sentinel h).2, fun h => (abs_roundTrip_error_lt h).1, abs_roundTrip_error_le x⟩,
    by decide, by decide⟩

end Sys2Proof.Machine
end

section
/-! Proofs about fixed words and values: the words and constants the spec prints, and its negative controls. -/

namespace Sys2Proof.Machine

/-- Settles O1: a word decodes to an operation when it is that operation's request word. -/
theorem decodeReadsSpecWords : Obligations.DecodeReadsSpecWords := by
  unfold Obligations.DecodeReadsSpecWords
  simp only [decodeRequest_eq_ok_iff]
  decide

/-- Settles O19: the constants are definitions, compared with the listed numbers. -/
theorem constantsAsListed : Obligations.ConstantsAsListed := by
  unfold Obligations.ConstantsAsListed
  decide

/-- Settles O50: an answer that is not the function value is refuted by the function value; the sample 32636 has segment
8. -/
theorem negativeControls : Obligations.NegativeControls := by
  have hsegment : ¬ ∀ x : Sample, encSegment x < 8 := fun h => absurd (h (BitVec.ofInt 16 32636)) (by decide)
  simp only [Obligations.NegativeControls, answers_iff]
  exact ⟨by decide, by decide, by decide, by decide, hsegment, by decide⟩

end Sys2Proof.Machine
end
